-- ==== Sys2Proof/Word.lean ====
section
/-! DEFINITION. The word types of the machine (00_scope.md R6, R8): every value is unsigned. -/

namespace Sys2Proof

/-- A byte: a memory cell, a general register, a timer, a random byte (R6: REG_W = TIMER_W = 8). -/
abbrev Byte := BitVec 8

/-- A 16-bit word: an instruction word, `pc`, `I`, a stack entry, the keypad vector (R6). -/
abbrev Word := BitVec 16

/-- A nibble, "a 4-bit field within an instruction word" (R12). -/
abbrev Nibble := BitVec 4

/-- A register index 0x0 to 0xF, a nibble of the instruction word (R21, R72). -/
abbrev RegIdx := BitVec 4

/-- A 12-bit address field NNN (R72). -/
abbrev Addr12 := BitVec 12

/-- `zext_16(v)` of R10 for an NNN field. -/
abbrev zextAddr (n : Addr12) : Word := n.setWidth 16

/-- `zext_16(v)` of R10 for a register value. -/
abbrev zextByte (b : Byte) : Word := b.setWidth 16

/-- R10, R55: the 16-bit word whose high byte is `hi` and low byte is `lo`. -/
abbrev wordOfBytes (hi lo : Byte) : Word := hi ++ lo

end Sys2Proof
end

