-- ==== Sys2Proof/Syntax.lean ====
section
/-! DEFINITION. The 34 instructions of 30_encoding.md R75, one constructor per row of spec/opcode_table.json, in the
table's order. The operand fields are those of R72. -/

namespace Sys2Proof

/-- R75: the instructions. `x`, `y` are register indices, `n`, `nn`, `nnn` unsigned immediates (R72). -/
inductive Instr where
  /-- 00E0 CLS: clear the framebuffer (R170). -/
  | cls
  /-- 00EE RET: return from subroutine (R112). -/
  | ret
  /-- 1NNN JP (R110). -/
  | jp (nnn : Addr12)
  /-- 2NNN CALL (R111). -/
  | call (nnn : Addr12)
  /-- 3XNN SE_IMM: skip if Vx = NN (R114). -/
  | seImm (x : RegIdx) (nn : Byte)
  /-- 4XNN SNE_IMM: skip if Vx differs from NN (R115). -/
  | sneImm (x : RegIdx) (nn : Byte)
  /-- 5XY0 SE_REG: skip if Vx = Vy (R116). -/
  | seReg (x y : RegIdx)
  /-- 6XNN LD_IMM (R130). -/
  | ldImm (x : RegIdx) (nn : Byte)
  /-- 7XNN ADD_IMM, no flag (R131). -/
  | addImm (x : RegIdx) (nn : Byte)
  /-- 8XY0 LD_REG (R132). -/
  | ldReg (x y : RegIdx)
  /-- 8XY1 OR (R133). -/
  | or (x y : RegIdx)
  /-- 8XY2 AND (R134). -/
  | and (x y : RegIdx)
  /-- 8XY3 XOR (R135). -/
  | xor (x y : RegIdx)
  /-- 8XY4 ADD_REG, VF the carry (R136). -/
  | addReg (x y : RegIdx)
  /-- 8XY5 SUB, VF not borrow (R137). -/
  | sub (x y : RegIdx)
  /-- 8XY6 SHR, VF the bit out; `y` is decoded and not used (R138, D9). -/
  | shr (x y : RegIdx)
  /-- 8XY7 SUBN, VF not borrow (R139). -/
  | subn (x y : RegIdx)
  /-- 8XYE SHL, VF the bit out; `y` is decoded and not used (R140, D9). -/
  | shl (x y : RegIdx)
  /-- 9XY0 SNE_REG: skip if Vx differs from Vy (R117). -/
  | sneReg (x y : RegIdx)
  /-- ANNN LD_I (R150). -/
  | ldI (nnn : Addr12)
  /-- BNNN JP_V0 (R113). -/
  | jpV0 (nnn : Addr12)
  /-- CXNN RND (R141). -/
  | rnd (x : RegIdx) (nn : Byte)
  /-- DXYN DRW: draw an 8 x N sprite (R171). -/
  | drw (x y : RegIdx) (n : Nibble)
  /-- EX9E SKP: skip if the key is pressed (R181). -/
  | skp (x : RegIdx)
  /-- EXA1 SKNP: skip if the key is not pressed (R182). -/
  | sknp (x : RegIdx)
  /-- FX07 LD_VX_DT (R180). -/
  | ldVxDt (x : RegIdx)
  /-- FX0A LD_VX_K: wait for a key press (R183). -/
  | ldVxK (x : RegIdx)
  /-- FX15 LD_DT_VX (R185). -/
  | ldDtVx (x : RegIdx)
  /-- FX18 LD_ST_VX (R186). -/
  | ldStVx (x : RegIdx)
  /-- FX1E ADD_I, no flag (R151). -/
  | addI (x : RegIdx)
  /-- FX29 LD_F: point at a font glyph (R152). -/
  | ldF (x : RegIdx)
  /-- FX33 LD_B: store BCD (R153). -/
  | ldB (x : RegIdx)
  /-- FX55 LD_MEM_VX: store V0 to Vx (R154). -/
  | ldMemVx (x : RegIdx)
  /-- FX65 LD_VX_MEM: load V0 to Vx (R155). -/
  | ldVxMem (x : RegIdx)
  deriving DecidableEq, Repr

/-- One row of the opcode map (R75): a word selects it exactly when `word and mask = pattern` (R74). -/
structure OpRow where
  mnemonic : String
  mask : Word
  pattern : Word
  deriving DecidableEq, Repr

end Sys2Proof
end

