-- ==== Sys2Proof/Decode.lean ====
section
/-! DEFINITION. Decoding a word (R72, R74, R93, R94), decoding bytes, the encoder (R82), the opcode map (R75), and
the decoder on a word numbered as spec/opcode_table.json numbers its bits. -/

namespace Sys2Proof

/-- R72: `op = w[15:12]`, the opcode family. -/
def opOf (w : Word) : Nibble := w.extractLsb' 12 4

/-- R72: `X = w[11:8]`. -/
def xOf (w : Word) : RegIdx := w.extractLsb' 8 4

/-- R72: `Y = w[7:4]`. -/
def yOf (w : Word) : RegIdx := w.extractLsb' 4 4

/-- R72: `N = w[3:0]`. -/
def nOf (w : Word) : Nibble := w.extractLsb' 0 4

/-- R72: `NN = w[7:0]`. -/
def nnOf (w : Word) : Byte := w.extractLsb' 0 8

/-- R72: `NNN = w[11:0]`. -/
def nnnOf (w : Word) : Addr12 := w.extractLsb' 0 12

/-- R94, family 0: the full word is matched. -/
def decodeFamily0 (w : Word) : Option Instr :=
  if w = 0x00E0#16 then some .cls
  else if w = 0x00EE#16 then some .ret
  else none

/-- R94, family 8: the low nibble is matched. -/
def decodeFamily8 (w : Word) : Option Instr :=
  match nOf w with
  | 0x0#4 => some (.ldReg (xOf w) (yOf w))
  | 0x1#4 => some (.or (xOf w) (yOf w))
  | 0x2#4 => some (.and (xOf w) (yOf w))
  | 0x3#4 => some (.xor (xOf w) (yOf w))
  | 0x4#4 => some (.addReg (xOf w) (yOf w))
  | 0x5#4 => some (.sub (xOf w) (yOf w))
  | 0x6#4 => some (.shr (xOf w) (yOf w))
  | 0x7#4 => some (.subn (xOf w) (yOf w))
  | 0xE#4 => some (.shl (xOf w) (yOf w))
  | _ => none

/-- R94, family E: the low byte is matched. -/
def decodeFamilyE (w : Word) : Option Instr :=
  match nnOf w with
  | 0x9E#8 => some (.skp (xOf w))
  | 0xA1#8 => some (.sknp (xOf w))
  | _ => none

/-- R94, family F: the low byte is matched. -/
def decodeFamilyF (w : Word) : Option Instr :=
  match nnOf w with
  | 0x07#8 => some (.ldVxDt (xOf w))
  | 0x0A#8 => some (.ldVxK (xOf w))
  | 0x15#8 => some (.ldDtVx (xOf w))
  | 0x18#8 => some (.ldStVx (xOf w))
  | 0x1E#8 => some (.addI (xOf w))
  | 0x29#8 => some (.ldF (xOf w))
  | 0x33#8 => some (.ldB (xOf w))
  | 0x55#8 => some (.ldMemVx (xOf w))
  | 0x65#8 => some (.ldVxMem (xOf w))
  | _ => none

/-- R94: the dispatch on the opcode family; `none` is `Unknown` (R77). -/
def decode (w : Word) : Option Instr :=
  match opOf w with
  | 0x0#4 => decodeFamily0 w
  | 0x1#4 => some (.jp (nnnOf w))
  | 0x2#4 => some (.call (nnnOf w))
  | 0x3#4 => some (.seImm (xOf w) (nnOf w))
  | 0x4#4 => some (.sneImm (xOf w) (nnOf w))
  | 0x5#4 => if nOf w = 0x0#4 then some (.seReg (xOf w) (yOf w)) else none
  | 0x6#4 => some (.ldImm (xOf w) (nnOf w))
  | 0x7#4 => some (.addImm (xOf w) (nnOf w))
  | 0x8#4 => decodeFamily8 w
  | 0x9#4 => if nOf w = 0x0#4 then some (.sneReg (xOf w) (yOf w)) else none
  | 0xA#4 => some (.ldI (nnnOf w))
  | 0xB#4 => some (.jpV0 (nnnOf w))
  | 0xC#4 => some (.rnd (xOf w) (nnOf w))
  | 0xD#4 => some (.drw (xOf w) (yOf w) (nOf w))
  | 0xE#4 => decodeFamilyE w
  | 0xF#4 => decodeFamilyF w
  | _ => none

/-- Why bytes decode to no instruction. -/
inductive DecodeReject where
  /-- R77: the two bytes form a word of the unknown space. -/
  | unknownOpcode (w : Word)
  /-- R70: every instruction is exactly two bytes; fewer were given. -/
  | truncated
  deriving DecidableEq, Repr

/-- R55, R70: decode the first instruction of a byte sequence, high byte first, and give the bytes after it. -/
def decodeBytes : List Byte → Except DecodeReject (Instr × List Byte)
  | hi :: lo :: rest =>
    match decode (wordOfBytes hi lo) with
    | some i => .ok (i, rest)
    | none => .error (.unknownOpcode (wordOfBytes hi lo))
  | _ => .error .truncated

/-- R73, R82: the formats RR and RRN: `op * 4096 + X * 256 + Y * 16 + N`. -/
def wordRR (op : Nibble) (x y : RegIdx) (n : Nibble) : Word :=
  BitVec.ofNat 16 (op.toNat * 4096 + x.toNat * 256 + y.toNat * 16 + n.toNat)

/-- R73, R82: the formats RI and RS: `op * 4096 + X * 256 + NN`. -/
def wordRI (op : Nibble) (x : RegIdx) (nn : Byte) : Word :=
  BitVec.ofNat 16 (op.toNat * 4096 + x.toNat * 256 + nn.toNat)

/-- R73, R82: the format A: `op * 4096 + NNN`. -/
def wordA (op : Nibble) (nnn : Addr12) : Word := BitVec.ofNat 16 (op.toNat * 4096 + nnn.toNat)

/-- R82: the encoding function, from the fixed nibbles of R75. -/
def encode : Instr → Word
  | .cls => 0x00E0#16
  | .ret => 0x00EE#16
  | .jp nnn => wordA 0x1 nnn
  | .call nnn => wordA 0x2 nnn
  | .seImm x nn => wordRI 0x3 x nn
  | .sneImm x nn => wordRI 0x4 x nn
  | .seReg x y => wordRR 0x5 x y 0x0
  | .ldImm x nn => wordRI 0x6 x nn
  | .addImm x nn => wordRI 0x7 x nn
  | .ldReg x y => wordRR 0x8 x y 0x0
  | .or x y => wordRR 0x8 x y 0x1
  | .and x y => wordRR 0x8 x y 0x2
  | .xor x y => wordRR 0x8 x y 0x3
  | .addReg x y => wordRR 0x8 x y 0x4
  | .sub x y => wordRR 0x8 x y 0x5
  | .shr x y => wordRR 0x8 x y 0x6
  | .subn x y => wordRR 0x8 x y 0x7
  | .shl x y => wordRR 0x8 x y 0xE
  | .sneReg x y => wordRR 0x9 x y 0x0
  | .ldI nnn => wordA 0xA nnn
  | .jpV0 nnn => wordA 0xB nnn
  | .rnd x nn => wordRI 0xC x nn
  | .drw x y n => wordRR 0xD x y n
  | .skp x => wordRI 0xE x 0x9E
  | .sknp x => wordRI 0xE x 0xA1
  | .ldVxDt x => wordRI 0xF x 0x07
  | .ldVxK x => wordRI 0xF x 0x0A
  | .ldDtVx x => wordRI 0xF x 0x15
  | .ldStVx x => wordRI 0xF x 0x18
  | .addI x => wordRI 0xF x 0x1E
  | .ldF x => wordRI 0xF x 0x29
  | .ldB x => wordRI 0xF x 0x33
  | .ldMemVx x => wordRI 0xF x 0x55
  | .ldVxMem x => wordRI 0xF x 0x65

/-- The byte at `pc` of an instruction word, bits 15 to 8 (R70). -/
def highByte (w : Word) : Byte := w.extractLsb' 8 8

/-- The byte at `pc + 1` of an instruction word, bits 7 to 0 (R70). -/
def lowByte (w : Word) : Byte := w.extractLsb' 0 8

/-- R81: the two bytes of an instruction in memory, high byte first. -/
def encodeBytes (i : Instr) : List Byte := [highByte (encode i), lowByte (encode i)]

/-- R75, families 0 to 7. -/
def opcodeRowsLow : List OpRow :=
  [⟨"CLS", 0xFFFF, 0x00E0⟩, ⟨"RET", 0xFFFF, 0x00EE⟩, ⟨"JP", 0xF000, 0x1000⟩, ⟨"CALL", 0xF000, 0x2000⟩,
   ⟨"SE_IMM", 0xF000, 0x3000⟩, ⟨"SNE_IMM", 0xF000, 0x4000⟩, ⟨"SE_REG", 0xF00F, 0x5000⟩,
   ⟨"LD_IMM", 0xF000, 0x6000⟩, ⟨"ADD_IMM", 0xF000, 0x7000⟩]

/-- R75, family 8. -/
def opcodeRows8 : List OpRow :=
  [⟨"LD_REG", 0xF00F, 0x8000⟩, ⟨"OR", 0xF00F, 0x8001⟩, ⟨"AND", 0xF00F, 0x8002⟩, ⟨"XOR", 0xF00F, 0x8003⟩,
   ⟨"ADD_REG", 0xF00F, 0x8004⟩, ⟨"SUB", 0xF00F, 0x8005⟩, ⟨"SHR", 0xF00F, 0x8006⟩, ⟨"SUBN", 0xF00F, 0x8007⟩,
   ⟨"SHL", 0xF00F, 0x800E⟩]

/-- R75, families 9 to E. -/
def opcodeRowsHigh : List OpRow :=
  [⟨"SNE_REG", 0xF00F, 0x9000⟩, ⟨"LD_I", 0xF000, 0xA000⟩, ⟨"JP_V0", 0xF000, 0xB000⟩, ⟨"RND", 0xF000, 0xC000⟩,
   ⟨"DRW", 0xF000, 0xD000⟩, ⟨"SKP", 0xF0FF, 0xE09E⟩, ⟨"SKNP", 0xF0FF, 0xE0A1⟩]

/-- R75, family F. -/
def opcodeRowsF : List OpRow :=
  [⟨"LD_VX_DT", 0xF0FF, 0xF007⟩, ⟨"LD_VX_K", 0xF0FF, 0xF00A⟩, ⟨"LD_DT_VX", 0xF0FF, 0xF015⟩,
   ⟨"LD_ST_VX", 0xF0FF, 0xF018⟩, ⟨"ADD_I", 0xF0FF, 0xF01E⟩, ⟨"LD_F", 0xF0FF, 0xF029⟩,
   ⟨"LD_B", 0xF0FF, 0xF033⟩, ⟨"LD_MEM_VX", 0xF0FF, 0xF055⟩, ⟨"LD_VX_MEM", 0xF0FF, 0xF065⟩]

/-- R75: the opcode map, 34 rows, in the table's order. -/
def opcodeRows : List OpRow := opcodeRowsLow ++ opcodeRows8 ++ opcodeRowsHigh ++ opcodeRowsF

/-- R74: the word `w` selects the row `r`. -/
def selectsRow (w : Word) (r : OpRow) : Bool := w &&& r.mask == r.pattern

/-- The mnemonic of R75 of an instruction. -/
def mnemonicOf : Instr → String
  | .cls => "CLS" | .ret => "RET" | .jp _ => "JP" | .call _ => "CALL"
  | .seImm _ _ => "SE_IMM" | .sneImm _ _ => "SNE_IMM" | .seReg _ _ => "SE_REG"
  | .ldImm _ _ => "LD_IMM" | .addImm _ _ => "ADD_IMM" | .ldReg _ _ => "LD_REG"
  | .or _ _ => "OR" | .and _ _ => "AND" | .xor _ _ => "XOR" | .addReg _ _ => "ADD_REG"
  | .sub _ _ => "SUB" | .shr _ _ => "SHR" | .subn _ _ => "SUBN" | .shl _ _ => "SHL"
  | .sneReg _ _ => "SNE_REG" | .ldI _ => "LD_I" | .jpV0 _ => "JP_V0" | .rnd _ _ => "RND"
  | .drw _ _ _ => "DRW" | .skp _ => "SKP" | .sknp _ => "SKNP" | .ldVxDt _ => "LD_VX_DT"
  | .ldVxK _ => "LD_VX_K" | .ldDtVx _ => "LD_DT_VX" | .ldStVx _ => "LD_ST_VX" | .addI _ => "ADD_I"
  | .ldF _ => "LD_F" | .ldB _ => "LD_B" | .ldMemVx _ => "LD_MEM_VX" | .ldVxMem _ => "LD_VX_MEM"

/-- The word of an instruction whose `nbits` table bits are `w`; the bits above are zero. -/
def tableWord (nbits w : Nat) : Word := BitVec.ofNat 16 (w % 2 ^ nbits)

/-- The instruction the decoder reads from the bytes of that word, laid out high byte first (R55). -/
def decodeTableWord (nbits w : Nat) : Option Instr :=
  match decodeBytes [highByte (tableWord nbits w), lowByte (tableWord nbits w)] with
  | .ok (i, _) => some i
  | .error _ => none

end Sys2Proof
end

