-- ==== Sys2Proof/Config.lean ====
section
/-! DEFINITION. What an implementation fixes (00_scope.md R6, R7), the host's possible next agent steps
(00_scope.md R11, 70_reset_and_hazards.md R231), and the free values: opaque constants of which nothing can be
proved. -/

namespace Sys2Proof

/-- R6: MEM_SIZE. -/
abbrev memSize : Nat := 4096

/-- R6: LOAD_BASE, the address of the first image byte and the start value of `pc`. -/
abbrev loadBase : Nat := 0x200

/-- R7, R95: what an unknown opcode does. -/
inductive UnknownPolicy where
  /-- The default: raise UnknownOpcode and halt (C1, D3). -/
  | halt
  /-- Report it to the host and continue at A + 2 (D31). -/
  | skip
  deriving DecidableEq, Repr, Inhabited

/-- R7: the parameters the source leaves to the implementation, each with this spec's default. -/
structure Config where
  /-- STACK_CAPACITY, an integer >= 1 (D2). -/
  stackCapacity : Nat := 16
  /-- UNKNOWN_POLICY (D3, D31). -/
  unknownPolicy : UnknownPolicy := .halt
  /-- FONT_BASE, 0 to 0x1B0 (D17). -/
  fontBase : Nat := 0
  /-- TICK_PERIOD, an integer >= 1 in the host's unit of time; it has no default (D20), and `none` says that the
  host has not given it. DESIGN CHOICE, log entry 4 (safe). -/
  tickPeriod : Option Nat := none
  deriving DecidableEq, Repr

/-- R11: one atomic step of one agent, as the host's driving loop may choose it, with its arguments (R231). -/
inductive Event where
  /-- The interpreter's `Step(keys)`: bit i of `keys` is key i (R90, R231). -/
  | step (keys : Word)
  /-- The timer engine's `Tick` (R187). -/
  | tick
  /-- The timer engine's `AdvanceTime(dt)` (R188). -/
  | advance (dt : Nat)
  /-- The host's `Start(image)` (R233). -/
  | start (image : List Byte)
  /-- The host's `Stop` (R234). -/
  | stop
  deriving DecidableEq, Repr, Inhabited

/-- FREE VALUE: the n-th agent step where the schedule of the state lists none; the interleaving is not fixed by
the hardware (R11, R189, U7). DESIGN CHOICE, log entry 1 (safe). -/
opaque Config.freeEvent : Nat → Event

/-- FREE VALUE: the n-th byte drawn from the random source where the state lists none (R141, U5: any value).
DESIGN CHOICE, log entry 3 (safe). -/
opaque Config.freeRand : Nat → Byte

/-- FREE VALUE: the tick period, less one, where the host has given none (R7, D20, U8). DESIGN CHOICE, log
entry 4 (safe). -/
opaque Config.freeTickPeriod : Nat

end Sys2Proof
end

