-- ==== Sys2Proof/Machine/State.lean ====
section
/-! DEFINITION. The state of the machine (10_state.md R20, "The complete state of the hardware"), with the parameters
of R7 and the model's own record of what stands on the interface signals, and the state after reset (R230). -/

namespace Sys2Proof.Machine

/-- R34: the run state. -/
inductive RunState where
  /-- Constructed, or stopped by the host: a `Step` does nothing. -/
  | stopped
  /-- A `Step` fetches and executes. -/
  | running
  /-- FX0A is suspended with destination register `x`: a `Step` polls the keypad. -/
  | awaitingKey (x : RegIdx)
  /-- A fault has stopped the machine: a `Step` does nothing. -/
  | halted
  deriving DecidableEq, Repr

/-- R200: the four kinds of fault of the hardware. -/
inductive FaultKind where
  | stackOverflow
  | stackUnderflow
  | unknownOpcode
  | memOutOfBounds
  deriving DecidableEq, Repr

/-- R35: the record of a fault: its kind, the address of the faulting instruction, and the instruction word, or
`none` (the spec's `absent`) when the fault arose in the fetch itself. -/
structure FaultRecord where
  kind : FaultKind
  addr : Word
  word : Option Word
  deriving DecidableEq, Repr

/-- Memory: (address, byte) pairs in the canonical form of `Memory.wf` (R50). -/
abbrev Memory := List Host.Cell

/-- R29: 32 rows of 64 pixels, row 0 at the top; the leftmost pixel of a row is the row's most significant bit. -/
abbrev Framebuffer := Vector (BitVec 64) 32

/-- THE MODEL'S OWN FIELDS, not the spec's: what stands on the interface signals (R231). The spec makes these the
arguments of the step relation (10_state.md section 11). Log entries 1, 2, 3 and 10. -/
structure Ports where
  /-- The agent steps to come, oldest first; when it is empty the next one is a free value (R11, R189). -/
  schedule : List Event := []
  /-- The number of agent steps taken: the index of the next free event. -/
  events : Nat := 0
  /-- `keys`: the keypad sample of the current `Step`, bit i = key i (R33). -/
  keys : Word := 0
  /-- The bytes a deterministic random source has ready; when there is none the byte drawn is a free value (R141). -/
  rands : List Byte := []
  /-- The number of bytes drawn: the index of the next free random byte. -/
  draws : Nat := 0
  /-- `report`: the non-fatal unknown-opcode reports made so far, newest first (R216). -/
  reports : List FaultRecord := []
  deriving DecidableEq, Repr

end Sys2Proof.Machine

namespace Sys2Proof.Machine

/-- R20: the state of the hardware; then the parameters of R7 (`cfg`) and the model's own `io`. -/
structure State where
  /-- `mem[0..4095]` (R50). -/
  mem : Memory
  /-- `V[0..15]` (R21). -/
  V : Vector Byte 16
  /-- The index register (R24). -/
  I : Word
  /-- The program counter, an absolute address (R25). -/
  pc : Word
  /-- The call stack, STACK_CAPACITY return addresses (R28). -/
  stack : List Word
  /-- The number of stack entries in use (R28). -/
  sp : Nat
  /-- The framebuffer (R29). -/
  fb : Framebuffer
  /-- The delay timer (R32). -/
  DT : Byte
  /-- The sound timer (R32). -/
  ST : Byte
  /-- The run state (R34). -/
  run : RunState
  /-- The fault record (R35). -/
  fault : Option FaultRecord
  /-- The key latch (R36). -/
  kprev : Word
  /-- The tick prescaler (R37). -/
  tacc : Nat
  /-- The parameters of the implementation (R7); no step changes them. -/
  cfg : Config
  /-- The interface signals; the model's own. -/
  io : Ports
  deriving DecidableEq, Repr

/-- The host outcome `fault`. Nobody raises it: every one of the spec's four faults has an effect the spec describes
(R206: the machine halts, with a record), which is a NEXT state of this model. So it has no constructor: safe, a
fault would be a stop where the hardware goes on. Log entry 5. -/
inductive Fault
  deriving DecidableEq, Repr

/-- The host outcome `refused`. -/
inductive Refusal where
  /-- Raised by an arm of `exec` for an instruction that has no meaning yet: safe, the model stops where the
  hardware goes on. No arm raises it now. -/
  | notModelled (mnemonic : String)
  deriving DecidableEq, Repr

/-- The state `S0` of R230 for the parameters `cfg`, with `io` on the interface: `run` is Stopped. Memory lists
nothing: an unlisted address reads as its reset content (`Memory.resetByte`). -/
def State.initial (cfg : Config) (io : Ports) : State :=
  { mem := []
    V := Vector.replicate 16 0
    I := 0
    pc := BitVec.ofNat 16 loadBase
    stack := List.replicate cfg.stackCapacity 0
    sp := 0
    fb := Vector.replicate 32 0
    DT := 0
    ST := 0
    run := .stopped
    fault := none
    kprev := 0
    tacc := 0
    cfg := cfg
    io := io }

/-- R232: the machine as constructed, with every parameter at its default (R7) and nothing on the interface. -/
def State.reset : State := State.initial {} {}

end Sys2Proof.Machine
end

