-- ==== Sys2Proof/Machine/Memory.lean ====
section
/-! DEFINITION. The 4096-byte memory (20_memory.md R50, R51): its reset content, reading and writing one byte, and the
canonical form of its list of cells. -/

namespace Sys2Proof.Machine

/-- R31: the glyphs of the digits 0 to 7, five bytes each. -/
def fontLow : List Byte :=
  [0xF0, 0x90, 0x90, 0x90, 0xF0] ++ [0x20, 0x60, 0x20, 0x20, 0x70] ++
  [0xF0, 0x10, 0xF0, 0x80, 0xF0] ++ [0xF0, 0x10, 0xF0, 0x10, 0xF0] ++
  [0x90, 0x90, 0xF0, 0x10, 0x10] ++ [0xF0, 0x80, 0xF0, 0x10, 0xF0] ++
  [0xF0, 0x80, 0xF0, 0x90, 0xF0] ++ [0xF0, 0x10, 0x20, 0x40, 0x40]

/-- R31: the glyphs of the digits 8 to F, five bytes each. -/
def fontHigh : List Byte :=
  [0xF0, 0x90, 0xF0, 0x90, 0xF0] ++ [0xF0, 0x90, 0xF0, 0x10, 0xF0] ++
  [0xF0, 0x90, 0xF0, 0x90, 0x90] ++ [0xE0, 0x90, 0xE0, 0x90, 0xE0] ++
  [0xF0, 0x80, 0x80, 0x80, 0xF0] ++ [0xE0, 0x90, 0x90, 0x90, 0xE0] ++
  [0xF0, 0x80, 0xF0, 0x80, 0xF0] ++ [0xF0, 0x80, 0xF0, 0x80, 0x80]

/-- R31: the 80 font bytes. PRESUMED by the spec itself (D17, G1), log entry 7 (unsafe). -/
def fontBytes : List Byte := fontLow ++ fontHigh

/-- R31, R51, R230: the content of address `a` at reset: the font at FONT_BASE, 0 everywhere else. -/
def Memory.resetByte (fontBase a : Nat) : Byte :=
  if fontBase ≤ a then (fontBytes[a - fontBase]?).getD 0 else 0

/-- The byte listed for address `a`, if one is. -/
def Memory.find : Memory → Nat → Option Byte
  | [], _ => none
  | (k, b) :: m, a => if k = a then some b else Memory.find m a

/-- R10, R58: `mem[a]`: the last value written, or the reset content. -/
def Memory.read (fontBase : Nat) (m : Memory) (a : Nat) : Byte :=
  (Memory.find m a).getD (Memory.resetByte fontBase a)

/-- The cell `(a, v)` put before the first cell of a higher address. -/
def Memory.insert : Memory → Nat → Byte → Memory
  | [], a, v => [(a, v)]
  | (k, b) :: m, a, v => if a < k then (a, v) :: (k, b) :: m else (k, b) :: Memory.insert m a v

/-- Every address but `a`. -/
def Memory.erase (m : Memory) (a : Nat) : Memory := m.filter fun c => c.1 != a

/-- R10: `mem[a] <- v`, in canonical form: an address that holds its reset content is not listed. -/
def Memory.write (fontBase : Nat) (m : Memory) (a : Nat) (v : Byte) : Memory :=
  if v = Memory.resetByte fontBase a then m.erase a else (m.erase a).insert a v

/-- The canonical form: addresses strictly rising and inside the space (R50), no cell at its reset content. -/
abbrev Memory.wf (fontBase : Nat) (m : Memory) : Prop :=
  m.Pairwise (fun c d => c.1 < d.1) ∧ ∀ c ∈ m, c.1 < memSize ∧ c.2 ≠ Memory.resetByte fontBase c.1

end Sys2Proof.Machine
end

