-- ==== Sys2Proof/Machine/Ops.lean ====
section
/-! DEFINITION. The named operations over registers, program counter, stack, memory and interface, and the one
operation that takes a fault (60_exceptions.md R206). There is no return from a fault (R207): `hostStart` and `hostStop`
of Agents.lean are the only ways out of Halted. -/

namespace Sys2Proof.Machine

/-- What an instruction answers. -/
abbrev Result := Host.Outcome State Fault Refusal

/-! ## General registers (R21) -/

/-- R9, R21: `V[x]`. -/
def State.reg (s : State) (x : RegIdx) : Byte := s.V[x.toNat]'x.isLt

/-- R9, R21: `V[x] <- v`. -/
def State.setReg (s : State) (x : RegIdx) (v : Byte) : State := { s with V := s.V.set x.toNat v x.isLt }

/-! ## Index register, timers, program counter -/

/-- R24: `I <- v`. -/
def State.setI (s : State) (v : Word) : State := { s with I := v }

/-- R32: `DT <- v`. -/
def State.setDT (s : State) (v : Byte) : State := { s with DT := v }

/-- R32: `ST <- v`. -/
def State.setST (s : State) (v : Byte) : State := { s with ST := v }

/-- R25: `pc <- v`. -/
def State.setPc (s : State) (v : Word) : State := { s with pc := v }

/-- R92: the advance of the fetch, `pc <- pc + 2`, made before dispatch. -/
def State.advance (s : State) : State := s.setPc (s.pc + 2)

/-- R118: a skip: `pc = A + 4` when the condition holds and `A + 2` otherwise. -/
def State.skipIf (s : State) (c : Bool) : State :=
  if c then s.advance.setPc (s.advance.pc + 2) else s.advance

/-! ## Call stack (R28) -/

/-- R111: `stack[sp] <- a`, `sp <- sp + 1`. -/
def State.push (s : State) (a : Word) : State := { s with stack := s.stack.set s.sp a, sp := s.sp + 1 }

/-- R28: `stack[sp-1]`, the most recent return address. -/
def State.stackTop (s : State) : Word := (s.stack[s.sp - 1]?).getD 0

/-- R112: `sp <- sp - 1`; the popped entry keeps its bits (R28, D25). -/
def State.pop (s : State) : State := { s with sp := s.sp - 1 }

/-! ## Memory (R10, R52, R53) -/

/-- The byte at address `a`, with no bounds check: what a reader of the memory sees. -/
def State.byteAt (s : State) (a : Nat) : Byte := Memory.read s.cfg.fontBase s.mem a

/-- R10: `MemRead(a, 1)`; `none` is `raise MemOutOfBounds`. -/
def State.readByte (s : State) (a : Nat) : Option Byte :=
  if a + 1 > memSize then none else some (s.byteAt a)

/-- R10: `MemWrite(a, 1, v)`; `none` is `raise MemOutOfBounds`. -/
def State.writeByte (s : State) (a : Nat) (v : Byte) : Option State :=
  if a + 1 > memSize then none else some { s with mem := Memory.write s.cfg.fontBase s.mem a v }

/-- R53: `n` reads, at `a`, `a + 1`, ...; `none` when any of them is out of bounds. No read when `n = 0` (D29). -/
def State.readBytes (s : State) (a : Nat) : Nat → Option (List Byte)
  | 0 => some []
  | n + 1 =>
    match s.readByte a with
    | none => none
    | some b => (s.readBytes (a + 1) n).map (b :: ·)

/-- R53: the bytes `bs` written at `a`, `a + 1`, ... in the working copy; `none` when any write is out of bounds, and
then the whole copy is thrown away (R91). -/
def State.writeBytes (s : State) (a : Nat) : List Byte → Option State
  | [] => some s
  | b :: bs =>
    match s.writeByte a b with
    | none => none
    | some t => t.writeBytes (a + 1) bs

/-- R10, R52, R55: `MemRead(pc, 2)`, big-endian; `none` is `raise MemOutOfBounds`, and then neither byte is read. -/
def State.fetchWord (s : State) : Option Word :=
  if s.pc.toNat + 2 > memSize then none
  else some (wordOfBytes (s.byteAt s.pc.toNat) (s.byteAt (s.pc.toNat + 1)))

/-! ## Random source (R141) -/

/-- R141: the byte `rand()` answers now: the next one of a deterministic source, else any value (U5). -/
def State.randByte (s : State) : Byte :=
  match s.io.rands with
  | b :: _ => b
  | [] => Config.freeRand s.io.draws

/-- R141: exactly one byte is drawn. -/
def State.drawRand (s : State) : State :=
  { s with io := { s.io with rands := s.io.rands.tail, draws := s.io.draws + 1 } }

/-! ## Faults (R200, R206) -/

/-- R200: the code of a fault kind (the spec's choice, D5). -/
def FaultKind.code : FaultKind → Nat
  | .stackOverflow => 1
  | .stackUnderflow => 2
  | .unknownOpcode => 3
  | .memOutOfBounds => 4

/-- R206: `raise K(addr = A, word)`. `s` is the state before the faulting step, so that `pc` is A and no write of the
step survives; only `run` and `fault` change. -/
def State.raise (s : State) (k : FaultKind) (word : Option Word) : State :=
  { s with run := .halted, fault := some { kind := k, addr := s.pc, word := word } }

/-- R206: the fault of the instruction `i` that stands at `s.pc`, whose word `w` is recorded. -/
def raiseFault (k : FaultKind) (i : Instr) (s : State) : Result := .next (s.raise k (some (encode i)))

/-- R216, D31: the non-fatal report (UnknownOpcode, A, w), an output event. -/
def State.report (s : State) (w : Word) : State :=
  { s with io := { s.io with
      reports := { kind := .unknownOpcode, addr := s.pc, word := some w } :: s.io.reports } }

/-- R95: `execute Unknown` for the word `w` at `s.pc`. -/
def unknownOpcode (w : Word) (s : State) : State :=
  match s.cfg.unknownPolicy with
  | .halt => s.raise .unknownOpcode (some w)
  | .skip => (s.report w).advance

end Sys2Proof.Machine
end

