-- ==== Sys2Proof/Machine/Operands.lean ====
section
/-! DEFINITION. The operand forms (30_encoding.md R72, 43_memory_index.md): nibbles of registers, the index-plus-offset
address, runs of registers, keys of the sample. -/

namespace Sys2Proof.Machine

/-- R152, R181, R182: the low nibble of `V[x]`, `vx[3:0]`. -/
def State.regNibble (s : State) (x : RegIdx) : Nibble := (s.reg x).extractLsb' 0 4

/-- R53: the base of the effective addresses `I + k`, an unbounded natural number. -/
def State.indexAddr (s : State) : Nat := s.I.toNat

/-- R33: `keys[k]` of the sample of this step: 1 means pressed. -/
def State.keyDown (s : State) (k : Nibble) : Bool := s.io.keys.getLsbD k.toNat

/-- R154: the registers V0 to VX, in order. -/
def State.regRun (s : State) (x : RegIdx) : List Byte := s.V.toList.take (x.toNat + 1)

/-- R155: `V[i] <- bs[i]` for every i that `bs` has; the other registers keep their values. -/
def State.loadRegs (s : State) (bs : List Byte) : State :=
  { s with V := Vector.ofFn fun r : Fin 16 => (bs[r.val]?).getD s.V[r] }

/-- R113: the target `zext_16(NNN) + zext_16(V[0])`. -/
def State.offsetTarget (s : State) (nnn : Addr12) : Word := zextAddr nnn + zextByte (s.reg 0)

/-- R152: the address of the glyph `d`, FONT_BASE + 5 * d (D17). -/
def State.glyphAddr (s : State) (d : Nibble) : Word := BitVec.ofNat 16 (s.cfg.fontBase + 5 * d.toNat)

/-- R153: the hundreds, tens and ones digits of a byte. -/
def bcdDigits (v : Byte) : List Byte :=
  [BitVec.ofNat 8 (v.toNat / 100), BitVec.ofNat 8 (v.toNat / 10 % 10), BitVec.ofNat 8 (v.toNat % 10)]

end Sys2Proof.Machine
end

