-- ==== Sys2Proof/Machine/Agents.lean ====
section
/-! DEFINITION. The agents besides instruction execution: the key poll that ends the FX0A wait (45_timers_keys.md
R184), the timer engine (R187, R188), the host's Start and Stop (70_reset_and_hazards.md R233, R234), and the choice of
the agent that moves next (00_scope.md R11). -/

namespace Sys2Proof.Machine

/-! ## The key poll (R184) -/

/-- R184: P, the keys that are 1 in this sample and 0 in the last one, as a bit set. -/
def State.newKeys (s : State) : Word := s.io.keys &&& ~~~ s.kprev

/-- R184: `min(P)`, or none when P is empty. -/
def lowestKey (p : Word) : Option Nat := (List.range 16).find? (fun k => p.getLsbD k)

/-- R184: `kprev <- keys`. -/
def State.latchKeys (s : State) : State := { s with kprev := s.io.keys }

/-- R34: `run <- r`. -/
def State.setRun (s : State) (r : RunState) : State := { s with run := r }

/-- R184: `Step(keys)` when `run` = AwaitingKey(x). -/
def keyPoll (x : RegIdx) (s : State) : State :=
  match lowestKey s.newKeys with
  | some k => (((s.setReg x (BitVec.ofNat 8 k)).setPc (s.pc + 2)).setRun .running).latchKeys
  | none => s.latchKeys

/-! ## The timer engine (R187, R188) -/

/-- R187: a timer that is not zero is decremented. -/
def countDown (t : Byte) : Byte := if t.toNat > 0 then t - 1 else t

/-- R187: `Tick`. -/
def tick (s : State) : State := { s with DT := countDown s.DT, ST := countDown s.ST }

/-- `n` ticks, one after the other. -/
def ticks : Nat → State → State
  | 0, s => s
  | n + 1, s => ticks n (tick s)

/-- R7, D20: TICK_PERIOD, which the host must give; where it has not, any period >= 1 (log entry 4, safe). -/
def Config.period (c : Config) : Nat :=
  match c.tickPeriod with
  | some p => p
  | none => Config.freeTickPeriod + 1

/-- R37: `tacc <- n`. -/
def State.setTacc (s : State) (n : Nat) : State := { s with tacc := n }

/-- R188: `AdvanceTime(dt)`: `(tacc + dt) div TICK_PERIOD` ticks, and the remainder stays in `tacc`. -/
def advanceTime (dt : Nat) (s : State) : State :=
  ticks ((s.tacc + dt) / Config.period s.cfg) (s.setTacc ((s.tacc + dt) % Config.period s.cfg))

/-! ## The host's operations (R233, R234) -/

/-- R231, R233: the longest image that fits, 4096 - 0x200 bytes. -/
def maxImage : Nat := memSize - loadBase

/-- R81, R233: `mem[a + k] <- bs[k]` for every k. -/
def loadImage (a : Nat) : List Byte → State → State
  | [], s => s
  | b :: bs, s => loadImage (a + 1) bs { s with mem := Memory.write s.cfg.fontBase s.mem a b }

/-- R233: `Start(image)`, from any state: everything is reset (R230), the image is loaded, and the machine runs; an
image too long is refused, and the state is unchanged (U14, log entry 8). The parameters and the interface are no
state of the hardware and stay (log entry 9). -/
def hostStart (image : List Byte) (s : State) : State :=
  if image.length > maxImage then s
  else (loadImage loadBase image (State.initial s.cfg s.io)).setRun .running

/-- R234: `Stop`, from any state: `run <- Stopped`. -/
def hostStop (s : State) : State := s.setRun .stopped

/-! ## Whose step is next (R11) -/

/-- R11, R189: the agent step that comes next: the schedule's, or any one where the schedule is empty. -/
def State.nextEvent (s : State) : Event :=
  match s.io.schedule with
  | e :: _ => e
  | [] => Config.freeEvent s.io.events

/-- The agent step that comes next has been taken off the schedule. -/
def State.popEvent (s : State) : State :=
  { s with io := { s.io with schedule := s.io.schedule.tail, events := s.io.events + 1 } }

/-- R33: a step samples the keypad once, at its start. -/
def State.sampleKeys (s : State) (keys : Word) : State := { s with io := { s.io with keys := keys } }

end Sys2Proof.Machine
end

