-- ==== Sys2Proof/Machine/Flags.lean ====
section
/-! DEFINITION. The flag computations of 42_alu.md R142 and the flag-last law R143. VF is V[15] (R22). -/

namespace Sys2Proof.Machine

/-- R22: VF, register 0xF. -/
def flagReg : RegIdx := 15

/-- R22: a flag is the value 0 or 1, never any other. -/
def flagByte (b : Bool) : Byte := if b then 1 else 0

/-- R142: carry exactly when `a + b > 255`. -/
def carryOf (a b : Byte) : Bool := decide (a.toNat + b.toNat > 255)

/-- R142: NOT borrow of `a - b`: exactly when `a >= b` (equal operands: D11). -/
def notBorrow (a b : Byte) : Bool := decide (a.toNat ≥ b.toNat)

/-- R138: the bit a shift right by one puts out, bit 0. -/
def shrOut (a : Byte) : Bool := a.getLsbD 0

/-- R140: the bit a shift left by one puts out, bit 7. -/
def shlOut (a : Byte) : Bool := a.getLsbD 7

/-- R143: the result is written first and VF last. -/
def State.setRegFlag (s : State) (x : RegIdx) (result : Byte) (flag : Bool) : State :=
  (s.setReg x result).setReg flagReg (flagByte flag)

end Sys2Proof.Machine
end

