-- ==== Sys2Proof/Machine/Alu.lean ====
section
/-! DEFINITION. The register ALU (42_alu.md R130 to R143). `s` is the state before the step, so every source is an old
value (R96); all arithmetic is modulo 256 (R142). -/

namespace Sys2Proof.Machine

/-- R130: 6XNN, `V[X] <- NN`. -/
def execLdImm (x : RegIdx) (nn : Byte) (s : State) : Result := .next (s.advance.setReg x nn)

/-- R131: 7XNN, `V[X] <- (vx + NN) mod 256`, no flag. -/
def execAddImm (x : RegIdx) (nn : Byte) (s : State) : Result := .next (s.advance.setReg x (s.reg x + nn))

/-- R132: 8XY0, `V[X] <- vy`. -/
def execLdReg (x y : RegIdx) (s : State) : Result := .next (s.advance.setReg x (s.reg y))

/-- R133: 8XY1, bitwise OR; VF is not written (R143, D10). -/
def execOr (x y : RegIdx) (s : State) : Result := .next (s.advance.setReg x (s.reg x ||| s.reg y))

/-- R134: 8XY2, bitwise AND; VF is not written (R143, D10). -/
def execAnd (x y : RegIdx) (s : State) : Result := .next (s.advance.setReg x (s.reg x &&& s.reg y))

/-- R135: 8XY3, bitwise exclusive OR; VF is not written (R143, D10). -/
def execXor (x y : RegIdx) (s : State) : Result := .next (s.advance.setReg x (s.reg x ^^^ s.reg y))

/-- R136: 8XY4, add; VF the carry. -/
def execAddReg (x y : RegIdx) (s : State) : Result :=
  .next (s.advance.setRegFlag x (s.reg x + s.reg y) (carryOf (s.reg x) (s.reg y)))

/-- R137: 8XY5, `vx - vy`; VF not borrow. -/
def execSub (x y : RegIdx) (s : State) : Result :=
  .next (s.advance.setRegFlag x (s.reg x - s.reg y) (notBorrow (s.reg x) (s.reg y)))

/-- R138: 8XY6, V[X] shifted right in place (D9); VF the bit out. -/
def execShr (x _y : RegIdx) (s : State) : Result :=
  .next (s.advance.setRegFlag x (s.reg x >>> 1) (shrOut (s.reg x)))

/-- R139: 8XY7, `vy - vx`; VF not borrow. -/
def execSubn (x y : RegIdx) (s : State) : Result :=
  .next (s.advance.setRegFlag x (s.reg y - s.reg x) (notBorrow (s.reg y) (s.reg x)))

/-- R140: 8XYE, V[X] shifted left in place (D9); VF the bit out. -/
def execShl (x _y : RegIdx) (s : State) : Result :=
  .next (s.advance.setRegFlag x (s.reg x <<< 1) (shlOut (s.reg x)))

/-- R141: CXNN, `V[X] <- rand() and NN`; exactly one byte is drawn. -/
def execRnd (x : RegIdx) (nn : Byte) (s : State) : Result :=
  .next (s.advance.drawRand.setReg x (s.randByte &&& nn))

end Sys2Proof.Machine
end

