-- ==== Sys2Proof/Machine/ControlFlow.lean ====
section
/-! DEFINITION. Control transfer (41_control_flow.md R110 to R118). In every meaning `s` is the state before the step:
`s.pc` is A, the address of the instruction; `s.advance` is the working copy the fetch leaves (R90, R92). -/

namespace Sys2Proof.Machine

/-- R110: 1NNN, `pc <- NNN`. -/
def execJp (nnn : Addr12) (s : State) : Result := .next (s.advance.setPc (zextAddr nnn))

/-- R111: 2NNN: push A + 2 and jump, or StackOverflow when all entries are in use. -/
def execCall (nnn : Addr12) (s : State) : Result :=
  if s.sp = s.cfg.stackCapacity then raiseFault .stackOverflow (.call nnn) s
  else .next ((s.advance.push s.advance.pc).setPc (zextAddr nnn))

/-- R112: 00EE: pop into `pc`, or StackUnderflow when the stack is empty. -/
def execRet (s : State) : Result :=
  if s.sp = 0 then raiseFault .stackUnderflow .ret s
  else .next (s.advance.pop.setPc s.stackTop)

/-- R113: BNNN, `pc <- NNN + V0`, not reduced modulo 4096 (D7). -/
def execJpV0 (nnn : Addr12) (s : State) : Result := .next (s.advance.setPc (s.offsetTarget nnn))

/-- R114: 3XNN. -/
def execSeImm (x : RegIdx) (nn : Byte) (s : State) : Result := .next (s.skipIf (s.reg x == nn))

/-- R115: 4XNN. -/
def execSneImm (x : RegIdx) (nn : Byte) (s : State) : Result := .next (s.skipIf (s.reg x != nn))

/-- R116: 5XY0. -/
def execSeReg (x y : RegIdx) (s : State) : Result := .next (s.skipIf (s.reg x == s.reg y))

/-- R117: 9XY0. -/
def execSneReg (x y : RegIdx) (s : State) : Result := .next (s.skipIf (s.reg x != s.reg y))

end Sys2Proof.Machine
end

