-- ==== Sys2Proof/Machine/Display.lean ====
section
/-! DEFINITION. The framebuffer compositor (44_display.md R170, R171) and the framebuffer's pixels (10_state.md R29). -/

namespace Sys2Proof.Machine

/-- R29: `fb[y][x]`, column x (0 at the left) of row y (0 at the top); coordinates out of the grid name no pixel. -/
def Framebuffer.pixel (f : Framebuffer) (x y : Nat) : Bool :=
  if h : y < 32 then (f[y]'h).getMsbD x else false

/-- R171: `fb[y][x] <- fb[y][x] xor 1`, for x < 64 and y < 32. -/
def Framebuffer.flip (f : Framebuffer) (x y : Nat) : Framebuffer :=
  if h : y < 32 then f.set y (f[y]'h ^^^ BitVec.twoPow 64 (63 - x)) h else f

/-- R170: all pixels 0. -/
def Framebuffer.clear : Framebuffer := Vector.replicate 32 0

/-- R171: the body of the pixel loop: a set pixel makes the collision; the pixel is flipped. -/
def plot (acc : Framebuffer × Bool) (x y : Nat) : Framebuffer × Bool :=
  (acc.1.flip x y, acc.2 || acc.1.pixel x y)

/-- R171: the 1 bits of one sprite byte, as columns c = 0 to 7; bit 7 - c of the byte is column c (D14, G3). -/
def spriteColumns (b : Byte) : List Nat := (List.range 8).filter fun c => b.getLsbD (7 - c)

/-- R171: the 1 bits (c, r) of the sprite whose rows from row r on are the bytes given, the top row first. -/
def spriteDots (r : Nat) : List Byte → List (Nat × Nat)
  | [] => []
  | b :: bs => (spriteColumns b).map (fun c => (c, r)) ++ spriteDots (r + 1) bs

/-- R171: the loops of DXYN with the corner at (x0, y0): every coordinate is reduced modulo 64 and 32 (D13). -/
def drawSprite (x0 y0 : Nat) (bs : List Byte) (f : Framebuffer) : Framebuffer × Bool :=
  (spriteDots 0 bs).foldl (fun acc d => plot acc ((x0 + d.1) % 64) ((y0 + d.2) % 32)) (f, false)

/-- R29: `fb <- f`. -/
def State.setFb (s : State) (f : Framebuffer) : State := { s with fb := f }

/-- R170: 00E0. -/
def execCls (s : State) : Result := .next (s.advance.setFb Framebuffer.clear)

/-- R171: DXYN: the N sprite bytes are read first, then drawn; VF is the collision, written last. -/
def execDrw (x y : RegIdx) (n : Nibble) (s : State) : Result :=
  match s.readBytes s.indexAddr n.toNat with
  | none => raiseFault .memOutOfBounds (.drw x y n) s
  | some bs =>
    let drawn := drawSprite ((s.reg x).toNat % 64) ((s.reg y).toNat % 32) bs s.fb
    .next ((s.advance.setFb drawn.1).setReg flagReg (flagByte drawn.2))

end Sys2Proof.Machine
end

