-- ==== Sys2Proof/Machine/MemoryIndex.lean ====
section
/-! DEFINITION. Index register and memory transfer (43_memory_index.md R150 to R155). No access changes `I`. -/

namespace Sys2Proof.Machine

/-- R150: ANNN, `I <- NNN`. -/
def execLdI (nnn : Addr12) (s : State) : Result := .next (s.advance.setI (zextAddr nnn))

/-- R151: FX1E, `I <- (I + vx) mod 65536`, no flag, no fault (D8). -/
def execAddI (x : RegIdx) (s : State) : Result := .next (s.advance.setI (s.I + zextByte (s.reg x)))

/-- R152: FX29, `I <- FONT_BASE + 5 * vx[3:0]` (D17). -/
def execLdF (x : RegIdx) (s : State) : Result := .next (s.advance.setI (s.glyphAddr (s.regNibble x)))

/-- R153: FX33, the three BCD digits of vx at I, I + 1, I + 2, or MemOutOfBounds and none of them. -/
def execLdB (x : RegIdx) (s : State) : Result :=
  match s.advance.writeBytes s.indexAddr (bcdDigits (s.reg x)) with
  | none => raiseFault .memOutOfBounds (.ldB x) s
  | some t => .next t

/-- R154: FX55, V0 to VX at I to I + X, or MemOutOfBounds and none of them. -/
def execLdMemVx (x : RegIdx) (s : State) : Result :=
  match s.advance.writeBytes s.indexAddr (s.regRun x) with
  | none => raiseFault .memOutOfBounds (.ldMemVx x) s
  | some t => .next t

/-- R155: FX65, V0 to VX from I to I + X, or MemOutOfBounds and no register written. -/
def execLdVxMem (x : RegIdx) (s : State) : Result :=
  match s.readBytes s.indexAddr (x.toNat + 1) with
  | none => raiseFault .memOutOfBounds (.ldVxMem x) s
  | some bs => .next (s.advance.loadRegs bs)

end Sys2Proof.Machine
end

