-- ==== Sys2Proof/Machine/TimersKeys.lean ====
section
/-! DEFINITION. Timer and keypad instructions (45_timers_keys.md R180 to R183, R185, R186). -/

namespace Sys2Proof.Machine

/-- R180: FX07, `V[X] <- DT`. -/
def execLdVxDt (x : RegIdx) (s : State) : Result := .next (s.advance.setReg x s.DT)

/-- R185: FX15, `DT <- vx`. -/
def execLdDtVx (x : RegIdx) (s : State) : Result := .next (s.advance.setDT (s.reg x))

/-- R186: FX18, `ST <- vx`. -/
def execLdStVx (x : RegIdx) (s : State) : Result := .next (s.advance.setST (s.reg x))

/-- R181: EX9E, skip if key vx[3:0] is pressed in this step's sample. -/
def execSkp (x : RegIdx) (s : State) : Result := .next (s.skipIf (s.keyDown (s.regNibble x)))

/-- R182: EXA1, skip if key vx[3:0] is not pressed in this step's sample. -/
def execSknp (x : RegIdx) (s : State) : Result := .next (s.skipIf (!s.keyDown (s.regNibble x)))

/-- R183: `run <- AwaitingKey(x)`, `kprev <- keys`. -/
def State.enterWait (s : State) (x : RegIdx) : State :=
  { s with run := .awaitingKey x, kprev := s.io.keys }

/-- R183: FX0A enters the wait; the advance of the fetch is undone, so `pc` stays A (D18). -/
def execLdVxK (x : RegIdx) (s : State) : Result := .next ((s.advance.enterWait x).setPc s.pc)

end Sys2Proof.Machine
end

