-- ==== Sys2Proof/Machine/Cycle.lean ====
section
/-! DEFINITION. The interpreter's `Step` (40_fetch_dispatch.md R90, R97) and one atomic step of whichever agent moves
(00_scope.md R11); and placing a word where the next step fetches. -/

namespace Sys2Proof.Machine

/-- R90: one fetch-decode-dispatch-execute cycle. The faults are found in the order of R205. -/
def cycle (s : State) : Result :=
  match s.fetchWord with
  | none => .next (s.raise .memOutOfBounds none)
  | some w =>
    match decode w with
    | some i => exec i s
    | none => .next (unknownOpcode w s)

/-- R90, R97, R184: `Step` according to `run`; the sample is on `io.keys`. -/
def interpStep (s : State) : Result :=
  match s.run with
  | .stopped => .next s
  | .halted => .next s
  | .awaitingKey x => .next (keyPoll x s)
  | .running => cycle s

/-- R11: the agent step `e`, from the state in which it has been taken off the schedule. -/
def agentStep (e : Event) (s : State) : Result :=
  match e with
  | .step keys => interpStep (s.sampleKeys keys)
  | .tick => .next (tick s)
  | .advance dt => .next (advanceTime dt s)
  | .start image => .next (hostStart image s)
  | .stop => .next (hostStop s)

/-- The word `w` stands at `pc` (high byte first, R55), where that is inside memory; the machine is Running and a
`Step` with the keypad as it stands is next on the schedule. -/
def State.placeWord (s : State) (w : Word) : State :=
  let t := ((s.writeBytes s.pc.toNat [highByte w, lowByte w]).getD s).setRun .running
  { t with io := { t.io with schedule := .step t.io.keys :: t.io.schedule } }

end Sys2Proof.Machine
end

