-- ==== Sys2Proof/Machine/Step.lean ====
section
/-! DEFINITION. The step of the machine: one atomic step of one agent (00_scope.md R11). -/

namespace Sys2Proof.Machine

/-- R11: the agent that moves next takes its step. -/
def step (s : State) : Host.Outcome State Fault Refusal := agentStep s.nextEvent s.popEvent

/-- `s` with the instruction of `nbits` table bits `w` where the very next `step` fetches and runs it (log entry 6). -/
def State.withFetchWord (s : State) (nbits w : Nat) : State := s.placeWord (tableWord nbits w)

end Sys2Proof.Machine
end

