-- ==== Sys2Proof/Machine/Outputs.lean ====
section
/-! DEFINITION. What the host can read between two steps (70_reset_and_hazards.md R231, R236): the packed framebuffer
(10_state.md R30), the timers, the sound cue (45_timers_keys.md R190), the run state and the fault record. -/

namespace Sys2Proof.Machine

/-- R30: the byte of a row that holds the pixels 8k to 8k + 7, the leftmost the most significant. -/
def packedByte (row : BitVec 64) (k : Nat) : Byte := row.extractLsb' (56 - 8 * k) 8

/-- R30: the 8 bytes of one row. -/
def packedRow (row : BitVec 64) : List Byte := (List.range 8).map (packedByte row)

/-- R30: `fbp[0..255]`, stride 8. -/
def State.fbp (s : State) : List Byte := s.fb.toList.flatMap packedRow

/-- R190: the sound output, `ST != 0`. -/
def State.soundOn (s : State) : Bool := s.ST != 0

/-- R231: the outputs valid at a step boundary. -/
structure Outputs where
  fbp : List Byte
  st : Byte
  dt : Byte
  run : RunState
  fault : Option FaultRecord
  report : List FaultRecord
  deriving DecidableEq, Repr

/-- R231, R236: the outputs; reading them changes nothing. -/
def State.outputs (s : State) : Outputs :=
  { fbp := s.fbp, st := s.ST, dt := s.DT, run := s.run, fault := s.fault, report := s.io.reports }

end Sys2Proof.Machine
end

