-- ==== Sys2Proof/WellFormed.lean ====
section
/-! DEFINITION. Well-formedness of instructions and of the implementation's parameters.

Every operand type of `Instr` has exactly the width of its field (R72), and R78 says that no value of any field is
reserved or illegal, so an ill-formed instruction cannot be written: the check on instructions refuses none. The
parameters do have ranges (R7), and the check on them refuses each value out of range. -/

namespace Sys2Proof

/-- R78: every value of every operand field is legal. -/
def Instr.wellFormed (_ : Instr) : Bool := true

/-- R7: STACK_CAPACITY is an integer >= 1. -/
def Config.stackCapacityOk (c : Config) : Bool := decide (1 ≤ c.stackCapacity)

/-- R7: FONT_BASE is 0 to 0x1B0. -/
def Config.fontBaseOk (c : Config) : Bool := decide (c.fontBase ≤ 0x1B0)

/-- R7: TICK_PERIOD is an integer >= 1, where the host has given it. -/
def Config.tickPeriodOk (c : Config) : Bool :=
  match c.tickPeriod with
  | some p => decide (1 ≤ p)
  | none => true

/-- R7: every parameter is in its range. -/
def Config.wellFormed (c : Config) : Bool :=
  c.stackCapacityOk && c.fontBaseOk && c.tickPeriodOk

end Sys2Proof
end

