-- ==== Sys2Proof/Safety.lean ====
section
/-! DEFINITION. What every reachable state of the machine satisfies, and what a safe run is, in the terms claims use. -/

namespace Sys2Proof.Machine

/-- Memory is listed in its one form (`Memory.wf`), inside the 4096-byte space (R50). -/
abbrev State.MemOk (s : State) : Prop := Memory.wf s.cfg.fontBase s.mem

/-- R28: STACK_CAPACITY entries, and "stack pointer never exceeds capacity". -/
abbrev State.StackOk (s : State) : Prop :=
  s.stack.length = s.cfg.stackCapacity ∧ s.sp ≤ s.cfg.stackCapacity

/-- R27: `pc` is at most 0x10FE; no return address lies above 4096 (R111); during the FX0A wait `pc` is held at an
instruction that was fetched, so at most 4094 (R183). -/
abbrev State.PcOk (s : State) : Prop :=
  s.pc.toNat ≤ 0x10FE ∧ (∀ a ∈ s.stack, a.toNat ≤ memSize) ∧
  ∀ x : RegIdx, s.run = .awaitingKey x → s.pc.toNat + 2 ≤ memSize

/-- R37: the prescaler is below TICK_PERIOD. -/
abbrev State.TaccOk (s : State) : Prop := s.tacc < Config.period s.cfg

/-- R34, R35, R206, R207: a halted machine has its record, and a machine with a record is halted or stopped. -/
abbrev State.FaultOk (s : State) : Prop :=
  (s.run = .halted → s.fault ≠ none) ∧ (s.fault ≠ none → s.run = .halted ∨ s.run = .stopped)

/-- The invariant of the machine. -/
structure State.Inv (s : State) : Prop where
  cfg : s.cfg.wellFormed = true
  mem : s.MemOk
  stack : s.StackOk
  pc : s.PcOk
  tacc : s.TaccOk
  fault : s.FaultOk

/-- R206, R207: the machine has not been stopped by a fault ("a halted state is never final"). -/
abbrev State.NotHalted (s : State) : Prop := s.run ≠ .halted

end Sys2Proof.Machine
end

