-- ==== Sys2Proof/Certificates/Slice0/Obligations.lean ====
section
/-! DEFINITION. The statements for the provers, in the order of OBLIGATIONS.json, and the few words they are written in.
"The model's choice" in a docstring names the log entry (notes/assumptions) or the decision of the spec
(92_eei_decisions.md) that the statement rests on. -/

namespace Sys2Proof.Claims

open Sys2Proof.Machine

/-- Every general register reads as before. -/
def RegsSame (s t : State) : Prop := ∀ r, t.reg r = s.reg r

/-- Every general register but `x` reads as before. -/
def RegsSameBut (x : RegIdx) (s t : State) : Prop := ∀ r, r ≠ x → t.reg r = s.reg r

/-- Everything but the general registers and the program counter is as before: every byte of memory, the index
register, the stack, the framebuffer, the timers, the run state, the fault record, the key latch, the prescaler, the
parameters and the interface. A statement that excepts a field writes the old value of that field into `t`. -/
structure OthersSame (s t : State) : Prop where
  bytes : ∀ a, t.byteAt a = s.byteAt a
  I : t.I = s.I
  stack : t.stack = s.stack
  sp : t.sp = s.sp
  fb : t.fb = s.fb
  DT : t.DT = s.DT
  ST : t.ST = s.ST
  run : t.run = s.run
  fault : t.fault = s.fault
  kprev : t.kprev = s.kprev
  tacc : t.tacc = s.tacc
  cfg : t.cfg = s.cfg
  io : t.io = s.io

/-- `t` is `s` after an instruction that only moves on or skips: `pc` is A + 4 when `c` holds and A + 2 otherwise. -/
structure Skips (s t : State) (c : Prop) : Prop where
  taken : c → t.pc = s.pc + 4
  notTaken : ¬ c → t.pc = s.pc + 2
  regs : RegsSame s t
  others : OthersSame s t

/-- `t` is `s` after an instruction that writes only the register `x`, and moves on. -/
structure WritesReg (s t : State) (x : RegIdx) : Prop where
  pc : t.pc = s.pc + 2
  regs : RegsSameBut x s t
  others : OthersSame s t

/-- `t` is `s` after an instruction that writes the register `x` and the flag: VF is `flag`, and `result` stands in
any other destination (R143: the flag is written last). -/
structure WritesRegAndFlag (s t : State) (x : RegIdx) (result flag : Nat) : Prop where
  flag : (t.reg 15).toNat = flag
  result : x ≠ 15 → (t.reg x).toNat = result
  pc : t.pc = s.pc + 2
  regs : ∀ r, r ≠ x → r ≠ 15 → t.reg r = s.reg r
  others : OthersSame s t

/-- The interface after the event of an interpreter step with the sample `keys` was taken off the schedule (log
entries 1 and 2). -/
def sampled (s : State) (keys : Word) : Ports :=
  { s.io with schedule := s.io.schedule.tail, events := s.io.events + 1, keys := keys }

/-- The interface after the event of another agent was taken off the schedule (log entry 1). -/
def popped (s : State) : Ports :=
  { s.io with schedule := s.io.schedule.tail, events := s.io.events + 1 }

/-- The two bytes at the program counter as an instruction word, high byte first. -/
def wordAtPc (s : State) : Word := wordOfBytes (s.byteAt s.pc.toNat) (s.byteAt (s.pc.toNat + 1))

/-- The table of R200: the fault an instruction raises in the state `s`, if it raises one. -/
def faultKindOf : Instr → State → Option FaultKind
  | .call _, s => if s.sp = s.cfg.stackCapacity then some .stackOverflow else none
  | .ret, s => if s.sp = 0 then some .stackUnderflow else none
  | .drw _ _ n, s => if 1 ≤ n.toNat ∧ s.indexAddr + n.toNat - 1 ≥ 4096 then some .memOutOfBounds else none
  | .ldB _, s => if s.indexAddr + 2 ≥ 4096 then some .memOutOfBounds else none
  | .ldMemVx x, s => if s.indexAddr + x.toNat ≥ 4096 then some .memOutOfBounds else none
  | .ldVxMem x, s => if s.indexAddr + x.toNat ≥ 4096 then some .memOutOfBounds else none
  | _, _ => none

/-- The table of R20, row V: the instruction may write the register `r` in its own step. -/
def mayWriteReg : Instr → RegIdx → Prop
  | .ldImm x _, r | .addImm x _, r | .ldReg x _, r | .or x _, r | .and x _, r | .xor x _, r | .rnd x _, r
  | .ldVxDt x, r => r = x
  | .addReg x _, r | .sub x _, r | .shr x _, r | .subn x _, r | .shl x _, r => r = x ∨ r = 15
  | .drw _ _ _, r => r = 15
  | .ldVxMem x, r => r.toNat ≤ x.toNat
  | _, _ => False

/-- R22: the instructions that write VF as a side effect. -/
def setsFlag : Instr → Prop
  | .addReg _ _ | .sub _ _ | .shr _ _ | .subn _ _ | .shl _ _ | .drw _ _ _ => True
  | _ => False

/-- R171: the sprite of `DRW x, y, n` has a 1 bit that lands on the pixel (px, py). -/
def Covered (s : State) (x y : RegIdx) (n : Nibble) (px py : Nat) : Prop :=
  ∃ r c, r < n.toNat ∧ c < 8 ∧ (s.byteAt (s.indexAddr + r)).getLsbD (7 - c) = true ∧
    px = ((s.reg x).toNat % 64 + c) % 64 ∧ py = ((s.reg y).toNat % 32 + r) % 32

/-- R171: the sprite covers a pixel that is on. -/
def Collides (s : State) (x y : RegIdx) (n : Nibble) : Prop :=
  ∃ px py, px < 64 ∧ py < 32 ∧ Covered s x y n px py ∧ s.fb.pixel px py = true

/-- R31: the glyphs 0 to 7 of the table, five bytes each. -/
def glyphsLow : List (List Byte) :=
  [[0xF0, 0x90, 0x90, 0x90, 0xF0], [0x20, 0x60, 0x20, 0x20, 0x70], [0xF0, 0x10, 0xF0, 0x80, 0xF0],
   [0xF0, 0x10, 0xF0, 0x10, 0xF0], [0x90, 0x90, 0xF0, 0x10, 0x10], [0xF0, 0x80, 0xF0, 0x10, 0xF0],
   [0xF0, 0x80, 0xF0, 0x90, 0xF0], [0xF0, 0x10, 0x20, 0x40, 0x40]]

/-- R31: the glyphs 8 to F of the table, five bytes each. -/
def glyphsHigh : List (List Byte) :=
  [[0xF0, 0x90, 0xF0, 0x90, 0xF0], [0xF0, 0x90, 0xF0, 0x10, 0xF0], [0xF0, 0x90, 0xF0, 0x90, 0x90],
   [0xE0, 0x90, 0xE0, 0x90, 0xE0], [0xF0, 0x80, 0x80, 0x80, 0xF0], [0xE0, 0x90, 0x90, 0x90, 0xE0],
   [0xF0, 0x80, 0xF0, 0x80, 0xF0], [0xF0, 0x80, 0xF0, 0x80, 0x80]]

/-- R31: byte k of glyph d of the table; none outside it. -/
def glyphByte (d k : Nat) : Option Byte := (glyphsLow ++ glyphsHigh)[d]?.bind fun g => g[k]?

/-- R154: what stands at address `a` after V0 to VX were stored from `I` on. -/
def byteAfterStore (s : State) (x : RegIdx) (a : Nat) : Byte :=
  if s.indexAddr ≤ a ∧ a ≤ s.indexAddr + x.toNat then s.reg (BitVec.ofNat 4 (a - s.indexAddr)) else s.byteAt a

/-- R153: what stands at address `a` after the three digits of V[X] were stored at `I`, `I + 1`, `I + 2`. -/
def byteAfterBcd (s : State) (x : RegIdx) (a : Nat) : Byte :=
  if a = s.indexAddr then BitVec.ofNat 8 ((s.reg x).toNat / 100)
  else if a = s.indexAddr + 1 then BitVec.ofNat 8 ((s.reg x).toNat / 10 % 10)
  else if a = s.indexAddr + 2 then BitVec.ofNat 8 ((s.reg x).toNat % 10)
  else s.byteAt a

end Sys2Proof.Claims

open Sys2Proof Sys2Proof.Machine Sys2Proof.Claims

/-! ## Encoding (30_encoding.md, 40_fetch_dispatch.md) -/

/-- Words of 95_test_vectors.md E1 to E17, and two bytes in memory order (E16, E17): what each decodes to. -/
def Obligations.WordsDecodeAsTheVectorsSay : Prop :=
  decode 0x00E0 = some .cls ∧ decode 0x00EE = some .ret ∧ decode 0x5010 = some (.seReg 0 1) ∧
  decode 0x5011 = none ∧ decode 0x9AB0 = some (.sneReg 10 11) ∧ decode 0x9AB1 = none ∧ decode 0x0000 = none ∧
  decode 0x8AB4 = some (.addReg 10 11) ∧ decode 0x800F = none ∧ decode 0xEF9E = some (.skp 15) ∧
  decode 0xE09F = none ∧ decode 0xF065 = some (.ldVxMem 0) ∧ decode 0xF075 = none ∧
  decode 0xD000 = some (.drw 0 0 0) ∧
  decodeBytes [0x83, 0xA4] = .ok (.addReg 3 10, []) ∧ decodeBytes [0xA4, 0x83] = .ok (.ldI 0x483, [])

/-- R72, R82, R94: decoding the encoded word, and the encoded bytes, of any instruction gives it back, at every value
of every operand. -/
def Obligations.DecodeOfEncodeIsTheInstruction : Prop :=
  ∀ (i : Instr) (rest : List Byte),
    decode (encode i) = some i ∧ decodeBytes (encodeBytes i ++ rest) = .ok (i, rest)

/-- R70, R94: a word that decodes is the word of the instruction it decodes to: no two words are one instruction. -/
def Obligations.EncodeOfDecodeIsTheWord : Prop :=
  ∀ (w : Word) (i : Instr), decode w = some i → encode i = w

/-- R74, R75: a word decodes to an instruction of the row it selects, and is unknown exactly when it selects no row.
That families 5 and 9 match their low nibble is the spec's decision D12. -/
def Obligations.DecodeFollowsTheOpcodeMap : Prop :=
  ∀ w : Word,
    (∀ i, decode w = some i → ∃ r ∈ opcodeRows, r.mnemonic = mnemonicOf i ∧ selectsRow w r = true) ∧
    (decode w = none ↔ ∀ r ∈ opcodeRows, selectsRow w r = false)

/-- R74: "the rows are pairwise disjoint". -/
def Obligations.OpcodeRowsAreDisjoint : Prop :=
  ∀ (w : Word) (r q : OpRow), r ∈ opcodeRows → q ∈ opcodeRows →
    selectsRow w r = true → selectsRow w q = true → r = q

/-- R77: the unknown-opcode space, family by family, on the number the word spells (D12 for families 5 and 9). -/
def Obligations.UnknownWordsWrittenOut : Prop :=
  ∀ w : Word, decode w = none ↔
    (w.toNat / 4096 = 0x0 ∧ w.toNat ≠ 0x00E0 ∧ w.toNat ≠ 0x00EE) ∨
    (w.toNat / 4096 = 0x5 ∧ w.toNat % 16 ≠ 0) ∨
    (w.toNat / 4096 = 0x8 ∧ w.toNat % 16 ∈ [0x8, 0x9, 0xA, 0xB, 0xC, 0xD, 0xF]) ∨
    (w.toNat / 4096 = 0x9 ∧ w.toNat % 16 ≠ 0) ∨
    (w.toNat / 4096 = 0xE ∧ w.toNat % 256 ∉ [0x9E, 0xA1]) ∨
    (w.toNat / 4096 = 0xF ∧ w.toNat % 256 ∉ [0x07, 0x0A, 0x15, 0x18, 0x1E, 0x29, 0x33, 0x55, 0x65])

/-! ## The step (40_fetch_dispatch.md) -/

/-- R90, R92: when the interpreter moves next, the machine is Running and the two bytes at `pc` decode to `i`, the step
is exec of `i` on the state whose event has been taken and whose keypad has been sampled. The schedule and the sample
field are the model's choice (log entries 1 and 2). -/
def Obligations.StepRunsTheDecodedInstruction : Prop :=
  ∀ (s : State) (keys : Word) (i : Instr),
    s.nextEvent = .step keys → s.run = .running → s.pc.toNat + 1 < 4096 → decode (wordAtPc s) = some i →
    step s = exec i { s with io := sampled s keys }

/-- R97: a Step of a Stopped or Halted machine changes nothing of the hardware (D23; the schedule is the model's choice,
log entry 1). -/
def Obligations.StepOutsideRunningDoesNothing : Prop :=
  ∀ (s : State) (keys : Word),
    s.nextEvent = .step keys → s.run = .stopped ∨ s.run = .halted →
    step s = .next { s with io := sampled s keys }

/-- R52, R92, R206: a fetch with `pc` at 4095 or more halts the machine with (MemOutOfBounds, pc, absent) and changes
nothing else (D4, D5, D7; log entries 1 and 5). -/
def Obligations.FetchOutOfMemoryHalts : Prop :=
  ∀ (s : State) (keys : Word),
    s.nextEvent = .step keys → s.run = .running → 4095 ≤ s.pc.toNat →
    step s = .next { s with
      io := sampled s keys
      run := .halted
      fault := some { kind := .memOutOfBounds, addr := s.pc, word := none } }

/-- R95, R206: under the default policy an unknown opcode halts the machine with (UnknownOpcode, A, w) and changes
nothing else (D3, D4, D5; log entries 1 and 5). -/
def Obligations.UnknownOpcodeHaltsByDefault : Prop :=
  ∀ (s : State) (keys : Word),
    s.nextEvent = .step keys → s.run = .running → s.pc.toNat + 1 < 4096 → decode (wordAtPc s) = none →
    s.cfg.unknownPolicy = .halt →
    step s = .next { s with
      io := sampled s keys
      run := .halted
      fault := some { kind := .unknownOpcode, addr := s.pc, word := some (wordAtPc s) } }

/-- R95, R216: under the Skip policy an unknown opcode moves `pc` to A + 2, reports (UnknownOpcode, A, w), and changes
nothing else (D31; log entries 1 and 10). -/
def Obligations.UnknownOpcodeIsSkippedUnderSkip : Prop :=
  ∀ (s : State) (keys : Word),
    s.nextEvent = .step keys → s.run = .running → s.pc.toNat + 1 < 4096 → decode (wordAtPc s) = none →
    s.cfg.unknownPolicy = .skip →
    ∃ t, step s = .next t ∧ t.pc.toNat = s.pc.toNat + 2 ∧ RegsSame s t ∧
      OthersSame s { t with io := s.io } ∧
      t.io = { sampled s keys with
        reports := { kind := .unknownOpcode, addr := s.pc, word := some (wordAtPc s) } :: s.io.reports }

/-! ## Reset and the invariant -/

/-- R230, R232, with the defaults of R7: every item of the state after construction. The font bytes (D17), `kprev`,
`tacc`, `run` and the stack entries (D20, D21, D25) are the spec's own choices; log entry 7. -/
def Obligations.ResetLeavesTheInitialState : Prop :=
  (∀ d k, d < 16 → k < 5 → glyphByte d k = some (State.reset.byteAt (5 * d + k))) ∧
  (∀ a, 80 ≤ a → State.reset.byteAt a = 0) ∧
  (∀ r, State.reset.reg r = 0) ∧ State.reset.I = 0 ∧ State.reset.pc = 0x200 ∧ State.reset.sp = 0 ∧
  State.reset.stack = List.replicate 16 0 ∧ (∀ x y, State.reset.fb.pixel x y = false) ∧
  State.reset.DT = 0 ∧ State.reset.ST = 0 ∧ State.reset.run = .stopped ∧ State.reset.fault = none ∧
  State.reset.kprev = 0 ∧ State.reset.tacc = 0 ∧ State.reset.cfg.stackCapacity = 16 ∧
  State.reset.cfg.unknownPolicy = .halt ∧ State.reset.cfg.fontBase = 0

/-- The invariant of Safety.lean holds at reset. -/
def Obligations.ResetSatisfiesTheInvariant : Prop := State.reset.Inv

/-- Every step of every agent keeps the invariant: parameters in range (R7), memory in canonical form inside the
4096-byte space (R50), `sp` within STACK_CAPACITY (R28), `pc` at most 0x10FE (R27), the prescaler below TICK_PERIOD
(R37), and a halted machine has its record (R206). -/
def Obligations.EveryStepKeepsTheInvariant : Prop :=
  ∀ s t : State, s.Inv → step s = .next t → t.Inv

/-- R90, R206: no step and no instruction ends without a next state: a fault of the hardware is a state too (log
entry 5). -/
def Obligations.EveryStepHasANextState : Prop :=
  (∀ s : State, ∃ t, step s = .next t) ∧ ∀ (i : Instr) (s : State), ∃ t, exec i s = .next t

/-! ## Whole-machine rules over all instructions -/

/-- R200, R206: an instruction raises a fault exactly in the cases of the table, and then only `run` and `fault`
change; in every other case it leaves the fault record alone, and the run state too but for FX0A. The record, the codes
and the `pc` left at A are the spec's decisions D4, D5, D7. -/
def Obligations.InstructionFaultsAreExactAndPrecise : Prop :=
  ∀ (i : Instr) (s : State),
    (∀ k, faultKindOf i s = some k →
      exec i s = .next { s with
        run := .halted
        fault := some { kind := k, addr := s.pc, word := some (encode i) } }) ∧
    (faultKindOf i s = none →
      ∃ t, exec i s = .next t ∧ t.fault = s.fault ∧ (t.run = s.run ∨ ∃ x, i = .ldVxK x))

/-- R20: each item of the state is changed only by the instructions of its "written by" column. -/
def Obligations.OnlyTheListedInstructionsWriteEachItem : Prop :=
  ∀ (i : Instr) (s t : State), exec i s = .next t →
    ((∀ x, i ≠ .ldB x ∧ i ≠ .ldMemVx x) → ∀ a, t.byteAt a = s.byteAt a) ∧
    ((∀ x nnn, i ≠ .ldI nnn ∧ i ≠ .addI x ∧ i ≠ .ldF x) → t.I = s.I) ∧
    ((∀ nnn, i ≠ .call nnn) → t.stack = s.stack) ∧
    ((∀ nnn, i ≠ .call nnn ∧ i ≠ .ret) → t.sp = s.sp) ∧
    ((∀ x y n, i ≠ .cls ∧ i ≠ .drw x y n) → t.fb = s.fb) ∧
    ((∀ x, i ≠ .ldDtVx x) → t.DT = s.DT) ∧
    ((∀ x, i ≠ .ldStVx x) → t.ST = s.ST) ∧
    ((∀ x, i ≠ .ldVxK x) → t.kprev = s.kprev) ∧
    ((∀ x nn, i ≠ .rnd x nn) → t.io = s.io) ∧
    t.tacc = s.tacc ∧ t.cfg = s.cfg

/-- R20, R22: a register changes only under an instruction that names it as its destination, and VF also under the six
that set the flag (D10, D15). -/
def Obligations.OnlyDestinationRegistersChange : Prop :=
  ∀ (i : Instr) (s t : State) (r : RegIdx), exec i s = .next t → ¬ mayWriteReg i r → t.reg r = s.reg r

/-- R22: each of the six flag-setting instructions leaves 0 or 1 in VF, never any other value, where it completes (D15
for DRW). -/
def Obligations.FlagIsZeroOrOne : Prop :=
  ∀ (i : Instr) (s : State), setsFlag i → faultKindOf i s = none →
    ∃ t, exec i s = .next t ∧ (t.reg 15 = 0 ∨ t.reg 15 = 1)

/-! ## Control transfer (41_control_flow.md) -/

/-- R110. -/
def Obligations.JumpSetsTheProgramCounter : Prop :=
  ∀ (nnn : Addr12) (s : State),
    ∃ t, exec (.jp nnn) s = .next t ∧ t.pc.toNat = nnn.toNat ∧ RegsSame s t ∧ OthersSame s t

/-- R111, with room on the stack: A + 2 is pushed; the other entries keep their bits (D25). -/
def Obligations.CallPushesTheNextAddress : Prop :=
  ∀ (nnn : Addr12) (s : State), s.StackOk → s.sp < s.cfg.stackCapacity →
    ∃ t, exec (.call nnn) s = .next t ∧ t.pc.toNat = nnn.toNat ∧ t.sp = s.sp + 1 ∧
      t.stack[s.sp]? = some (s.pc + 2) ∧ (∀ j, j ≠ s.sp → t.stack[j]? = s.stack[j]?) ∧
      RegsSame s t ∧ OthersSame s { t with stack := s.stack, sp := s.sp }

/-- R112, with an entry on the stack: it is popped into `pc` and keeps its bits (D25). -/
def Obligations.ReturnPopsTheProgramCounter : Prop :=
  ∀ s : State, s.StackOk → 0 < s.sp →
    ∃ t, exec .ret s = .next t ∧ s.stack[s.sp - 1]? = some t.pc ∧ t.sp + 1 = s.sp ∧
      RegsSame s t ∧ OthersSame s { t with sp := s.sp }

/-- R112, S7: "calling then returning leaves the program counter equal to the instruction after the call", for every
depth up to capacity, whatever the subroutine did besides, as long as the stack is as the call left it. -/
def Obligations.ReturnUndoesCall : Prop :=
  ∀ (nnn : Addr12) (s : State), s.StackOk → s.sp < s.cfg.stackCapacity →
    ∃ t, exec (.call nnn) s = .next t ∧
      ∀ u : State, u.stack = t.stack → u.sp = t.sp →
        ∃ v, exec .ret u = .next v ∧ v.pc = s.pc + 2 ∧ v.sp = s.sp

/-- R113: the sum is not reduced modulo 4096 (D7). -/
def Obligations.JumpWithOffsetAddsV0 : Prop :=
  ∀ (nnn : Addr12) (s : State),
    ∃ t, exec (.jpV0 nnn) s = .next t ∧ t.pc.toNat = nnn.toNat + (s.reg 0).toNat ∧
      RegsSame s t ∧ OthersSame s t

/-- R114 to R117: the compare-and-skip instructions. -/
def Obligations.CompareSkipsAdvanceByFourOrTwo : Prop :=
  ∀ (x y : RegIdx) (nn : Byte) (s : State),
    (∃ t, exec (.seImm x nn) s = .next t ∧ Skips s t ((s.reg x).toNat = nn.toNat)) ∧
    (∃ t, exec (.sneImm x nn) s = .next t ∧ Skips s t ((s.reg x).toNat ≠ nn.toNat)) ∧
    (∃ t, exec (.seReg x y) s = .next t ∧ Skips s t ((s.reg x).toNat = (s.reg y).toNat)) ∧
    (∃ t, exec (.sneReg x y) s = .next t ∧ Skips s t ((s.reg x).toNat ≠ (s.reg y).toNat))

/-! ## Register ALU (42_alu.md) -/

/-- R130. -/
def Obligations.LoadImmediateWritesTheRegister : Prop :=
  ∀ (x : RegIdx) (nn : Byte) (s : State),
    ∃ t, exec (.ldImm x nn) s = .next t ∧ t.reg x = nn ∧ WritesReg s t x

/-- R131: the sum wraps, and VF is not touched unless it is the destination. -/
def Obligations.AddImmediateWrapsWithoutFlag : Prop :=
  ∀ (x : RegIdx) (nn : Byte) (s : State),
    ∃ t, exec (.addImm x nn) s = .next t ∧
      (t.reg x).toNat = ((s.reg x).toNat + nn.toNat) % 256 ∧ WritesReg s t x

/-- R132. -/
def Obligations.CopyWritesTheRegister : Prop :=
  ∀ (x y : RegIdx) (s : State),
    ∃ t, exec (.ldReg x y) s = .next t ∧ t.reg x = s.reg y ∧ WritesReg s t x

/-- R133 to R135, bit by bit; that VF is not written is the spec's decision D10. -/
def Obligations.LogicOperationsWorkBitByBit : Prop :=
  ∀ (x y : RegIdx) (s : State),
    (∃ t, exec (.or x y) s = .next t ∧ WritesReg s t x ∧
      ∀ j, (t.reg x).getLsbD j = ((s.reg x).getLsbD j || (s.reg y).getLsbD j)) ∧
    (∃ t, exec (.and x y) s = .next t ∧ WritesReg s t x ∧
      ∀ j, (t.reg x).getLsbD j = ((s.reg x).getLsbD j && (s.reg y).getLsbD j)) ∧
    (∃ t, exec (.xor x y) s = .next t ∧ WritesReg s t x ∧
      ∀ j, (t.reg x).getLsbD j = ((s.reg x).getLsbD j != (s.reg y).getLsbD j))

/-- R136: the sum modulo 256, then the carry in VF. -/
def Obligations.AddSetsTheCarryLast : Prop :=
  ∀ (x y : RegIdx) (s : State),
    ∃ t, exec (.addReg x y) s = .next t ∧
      WritesRegAndFlag s t x (((s.reg x).toNat + (s.reg y).toNat) % 256)
        (if (s.reg x).toNat + (s.reg y).toNat > 255 then 1 else 0)

/-- R137, R139: the difference modulo 256, then NOT borrow in VF; 1 for equal operands is the spec's decision D11. -/
def Obligations.SubtractionsSetNotBorrowLast : Prop :=
  ∀ (x y : RegIdx) (s : State),
    (∃ t, exec (.sub x y) s = .next t ∧
      WritesRegAndFlag s t x (((s.reg x).toNat + 256 - (s.reg y).toNat) % 256)
        (if (s.reg x).toNat ≥ (s.reg y).toNat then 1 else 0)) ∧
    (∃ t, exec (.subn x y) s = .next t ∧
      WritesRegAndFlag s t x (((s.reg y).toNat + 256 - (s.reg x).toNat) % 256)
        (if (s.reg y).toNat ≥ (s.reg x).toNat then 1 else 0))

/-- R138, R140: V[X] is shifted in place whatever Y is (the spec's decision D9), then the bit shifted out in VF. -/
def Obligations.ShiftsMoveOneBitAndSetTheFlagLast : Prop :=
  ∀ (x y : RegIdx) (s : State),
    (∃ t, exec (.shr x y) s = .next t ∧
      WritesRegAndFlag s t x ((s.reg x).toNat / 2) ((s.reg x).toNat % 2)) ∧
    (∃ t, exec (.shl x y) s = .next t ∧
      WritesRegAndFlag s t x ((s.reg x).toNat * 2 % 256) ((s.reg x).toNat / 128))

/-- R141: the next random byte, masked, and exactly one byte is drawn. Where the byte comes from, a listed one or a free
value, is the model's choice (log entry 3): the statement holds for every value of it. -/
def Obligations.RandomDrawsOneMaskedByte : Prop :=
  ∀ (x : RegIdx) (nn : Byte) (s : State),
    ∃ t r, exec (.rnd x nn) s = .next t ∧
      (∀ b rest, s.io.rands = b :: rest → r = b ∧ t.io.rands = rest) ∧
      (s.io.rands = [] → r = Config.freeRand s.io.draws ∧ t.io.rands = []) ∧
      (∀ j, (t.reg x).getLsbD j = (r.getLsbD j && nn.getLsbD j)) ∧
      t.io.draws = s.io.draws + 1 ∧
      t.pc = s.pc + 2 ∧ RegsSameBut x s t ∧ OthersSame s { t with io := s.io } ∧
      t.io.schedule = s.io.schedule ∧ t.io.events = s.io.events ∧ t.io.keys = s.io.keys ∧
      t.io.reports = s.io.reports

/-! ## Index register and memory (43_memory_index.md) -/

/-- R150. -/
def Obligations.LoadIndexWritesI : Prop :=
  ∀ (nnn : Addr12) (s : State),
    ∃ t, exec (.ldI nnn) s = .next t ∧ t.I.toNat = nnn.toNat ∧ t.pc = s.pc + 2 ∧
      RegsSame s t ∧ OthersSame s { t with I := s.I }

/-- R151: modulo 65536, no flag, no fault (the spec's decision D8). -/
def Obligations.AddToIndexWrapsWithoutFlag : Prop :=
  ∀ (x : RegIdx) (s : State),
    ∃ t, exec (.addI x) s = .next t ∧ t.I.toNat = (s.I.toNat + (s.reg x).toNat) % 65536 ∧
      t.pc = s.pc + 2 ∧ RegsSame s t ∧ OthersSame s { t with I := s.I }

/-- R152: the glyph of the low nibble, five bytes a glyph (the spec's decision D17), for FONT_BASE in its range. -/
def Obligations.FontIndexPointsAtTheGlyph : Prop :=
  ∀ (x : RegIdx) (s : State), s.cfg.fontBase ≤ 0x1B0 →
    ∃ t, exec (.ldF x) s = .next t ∧ t.I.toNat = s.cfg.fontBase + 5 * ((s.reg x).toNat % 16) ∧
      t.pc = s.pc + 2 ∧ RegsSame s t ∧ OthersSame s { t with I := s.I }

/-- R153: the three decimal digits at I, I + 1, I + 2; or MemOutOfBounds, and none of the three is written. -/
def Obligations.BcdStoresThreeDigitsOrNone : Prop :=
  ∀ (x : RegIdx) (s : State),
    (s.indexAddr + 2 < 4096 →
      ∃ t, exec (.ldB x) s = .next t ∧
        (t.byteAt s.indexAddr).toNat = (s.reg x).toNat / 100 ∧
        (t.byteAt (s.indexAddr + 1)).toNat = (s.reg x).toNat / 10 % 10 ∧
        (t.byteAt (s.indexAddr + 2)).toNat = (s.reg x).toNat % 10 ∧
        (∀ a, a < s.indexAddr ∨ s.indexAddr + 2 < a → t.byteAt a = s.byteAt a) ∧
        t.pc = s.pc + 2 ∧ RegsSame s t ∧ OthersSame s { t with mem := s.mem }) ∧
    (s.indexAddr + 2 ≥ 4096 →
      ∃ t, exec (.ldB x) s = .next t ∧ t.fault.map FaultRecord.kind = some .memOutOfBounds ∧
        RegsSame s t ∧ OthersSame s { t with run := s.run, fault := s.fault })

/-- R154: V0 to VX at I to I + X; or MemOutOfBounds, and no byte is written. -/
def Obligations.RegisterStoreWritesTheRunOrNothing : Prop :=
  ∀ (x : RegIdx) (s : State),
    (s.indexAddr + x.toNat < 4096 →
      ∃ t, exec (.ldMemVx x) s = .next t ∧
        (∀ r : RegIdx, r.toNat ≤ x.toNat → t.byteAt (s.indexAddr + r.toNat) = s.reg r) ∧
        (∀ a, a < s.indexAddr ∨ s.indexAddr + x.toNat < a → t.byteAt a = s.byteAt a) ∧
        t.pc = s.pc + 2 ∧ RegsSame s t ∧ OthersSame s { t with mem := s.mem }) ∧
    (s.indexAddr + x.toNat ≥ 4096 →
      ∃ t, exec (.ldMemVx x) s = .next t ∧ t.fault.map FaultRecord.kind = some .memOutOfBounds ∧
        RegsSame s t ∧ OthersSame s { t with run := s.run, fault := s.fault })

/-- R155: V0 to VX from I to I + X; or MemOutOfBounds, and no register is written. -/
def Obligations.RegisterLoadReadsTheRunOrNothing : Prop :=
  ∀ (x : RegIdx) (s : State),
    (s.indexAddr + x.toNat < 4096 →
      ∃ t, exec (.ldVxMem x) s = .next t ∧
        (∀ r : RegIdx, r.toNat ≤ x.toNat → t.reg r = s.byteAt (s.indexAddr + r.toNat)) ∧
        (∀ r : RegIdx, x.toNat < r.toNat → t.reg r = s.reg r) ∧
        t.pc = s.pc + 2 ∧ OthersSame s t) ∧
    (s.indexAddr + x.toNat ≥ 4096 →
      ∃ t, exec (.ldVxMem x) s = .next t ∧ t.fault.map FaultRecord.kind = some .memOutOfBounds ∧
        RegsSame s t ∧ OthersSame s { t with run := s.run, fault := s.fault })

/-- R155, S8: "dumping registers 0..X to memory then loading them back from the same address reproduces the original
register values, and the index register is unchanged by either operation", whatever the registers hold in between. -/
def Obligations.LoadAfterStoreRestoresTheRegisters : Prop :=
  ∀ (x : RegIdx) (s : State), s.indexAddr + x.toNat < 4096 →
    ∃ t, exec (.ldMemVx x) s = .next t ∧ t.I = s.I ∧
      ∀ u : State, u.I = t.I → (∀ a, u.byteAt a = t.byteAt a) →
        ∃ v, exec (.ldVxMem x) u = .next v ∧ v.I = s.I ∧
          ∀ r : RegIdx, r.toNat ≤ x.toNat → v.reg r = s.reg r

/-- R62: a store is seen by the very next fetch, wherever it falls: after FX55 or FX33 the word fetched is made of the
bytes that then stand at A + 2 and A + 3: the stored one where the store reaches that address (one of the two, both, or
neither), the old one elsewhere. Where A + 3 is outside memory there is no next word (FetchOutOfMemoryHalts). -/
def Obligations.StoreIsSeenByTheNextFetch : Prop :=
  ∀ (x : RegIdx) (s : State), s.pc.toNat + 4 ≤ 4096 →
    (s.indexAddr + x.toNat < 4096 →
      ∃ t, exec (.ldMemVx x) s = .next t ∧
        t.fetchWord =
          some (wordOfBytes (byteAfterStore s x (s.pc.toNat + 2)) (byteAfterStore s x (s.pc.toNat + 3)))) ∧
    (s.indexAddr + 2 < 4096 →
      ∃ t, exec (.ldB x) s = .next t ∧
        t.fetchWord =
          some (wordOfBytes (byteAfterBcd s x (s.pc.toNat + 2)) (byteAfterBcd s x (s.pc.toNat + 3))))

/-! ## Display (44_display.md) -/

/-- R170. -/
def Obligations.ClearTurnsEveryPixelOff : Prop :=
  ∀ s : State,
    ∃ t, exec .cls s = .next t ∧ (∀ x y, t.fb.pixel x y = false) ∧ t.pc = s.pc + 2 ∧
      RegsSame s t ∧ OthersSame s { t with fb := s.fb }

/-- R171, pixel by pixel: exactly the covered pixels are flipped, with wraparound; VF is the collision, 0 or 1. The
wraparound, the bit order, the write of VF and N = 0 are the spec's decisions D13, D14, D15, D29. -/
def Obligations.DrawFlipsExactlyTheCoveredPixels : Prop :=
  ∀ (x y : RegIdx) (n : Nibble) (s : State), n = 0 ∨ s.indexAddr + n.toNat ≤ 4096 →
    ∃ t, exec (.drw x y n) s = .next t ∧
      (∀ px py, px < 64 → py < 32 → Covered s x y n px py → t.fb.pixel px py = !s.fb.pixel px py) ∧
      (∀ px py, px < 64 → py < 32 → ¬ Covered s x y n px py → t.fb.pixel px py = s.fb.pixel px py) ∧
      (Collides s x y n → t.reg 15 = 1) ∧ (¬ Collides s x y n → t.reg 15 = 0) ∧
      t.pc = s.pc + 2 ∧ RegsSameBut 15 s t ∧ OthersSame s { t with fb := s.fb }

/-- R172 (a), S5: drawing the same sprite at the same place twice restores the framebuffer exactly; where the first
draw met no pixel that was on, the second one collides exactly when the sprite has a 1 bit (D13 to D15). VF must not be
a coordinate, since the first draw overwrites it. -/
def Obligations.DrawingTwiceRestoresTheFramebuffer : Prop :=
  ∀ (x y : RegIdx) (n : Nibble) (s : State), x ≠ 15 → y ≠ 15 → n = 0 ∨ s.indexAddr + n.toNat ≤ 4096 →
    ∃ t u, exec (.drw x y n) s = .next t ∧ exec (.drw x y n) t = .next u ∧ u.fb = s.fb ∧
      (t.reg 15 = 0 → (∃ px py, Covered s x y n px py) → u.reg 15 = 1) ∧
      ((¬ ∃ px py, Covered s x y n px py) → t.reg 15 = 0 ∧ u.reg 15 = 0)

/-- R30: the packed framebuffer, 256 bytes, pixel (x, y) in bit 7 - x mod 8 of byte 8y + x div 8 (the spec's decision
D16). -/
def Obligations.PackedFramebufferHoldsEveryPixel : Prop :=
  ∀ s : State, s.fbp.length = 256 ∧
    ∀ x y, x < 64 → y < 32 →
      ∃ b, s.fbp[y * 8 + x / 8]? = some b ∧ b.getLsbD (7 - x % 8) = s.fb.pixel x y

/-! ## Timers and keys (45_timers_keys.md) -/

/-- R180. -/
def Obligations.ReadDelayTimerWritesTheRegister : Prop :=
  ∀ (x : RegIdx) (s : State),
    ∃ t, exec (.ldVxDt x) s = .next t ∧ t.reg x = s.DT ∧ WritesReg s t x

/-- R185: the prescaler is not reset; after as many ticks as the value written the timer is 0. -/
def Obligations.SetDelayTimerWritesDT : Prop :=
  ∀ (x : RegIdx) (s : State),
    ∃ t, exec (.ldDtVx x) s = .next t ∧ t.DT = s.reg x ∧ t.pc = s.pc + 2 ∧
      RegsSame s t ∧ OthersSame s { t with DT := s.DT } ∧ (ticks (s.reg x).toNat t).DT = 0

/-- R186: the sound is on from this step exactly while `ST` is not 0. -/
def Obligations.SetSoundTimerWritesST : Prop :=
  ∀ (x : RegIdx) (s : State),
    ∃ t, exec (.ldStVx x) s = .next t ∧ t.ST = s.reg x ∧ t.pc = s.pc + 2 ∧
      RegsSame s t ∧ OthersSame s { t with ST := s.ST } ∧ t.soundOn = (s.reg x != 0) ∧
      (ticks (s.reg x).toNat t).ST = 0 ∧ (ticks (s.reg x).toNat t).soundOn = false

/-- R181, R182: the skips on the level of the key named by the low nibble, in this step's sample. That the sample stands
in the field `io.keys` is the model's choice (log entry 2). -/
def Obligations.KeySkipsTestTheSampledLevel : Prop :=
  ∀ (x : RegIdx) (s : State),
    (∃ t, exec (.skp x) s = .next t ∧ Skips s t (s.io.keys.getLsbD ((s.reg x).toNat % 16) = true)) ∧
    (∃ t, exec (.sknp x) s = .next t ∧ Skips s t (s.io.keys.getLsbD ((s.reg x).toNat % 16) = false))

/-- R183: FX0A enters the wait, `pc` stays at the instruction and the sample becomes the reference (the spec's
decisions D18, D19; that the sample stands in `io.keys` is the model's choice, log entry 2). -/
def Obligations.KeyWaitSuspendsAtTheInstruction : Prop :=
  ∀ (x : RegIdx) (s : State),
    ∃ t, exec (.ldVxK x) s = .next t ∧ t.run = .awaitingKey x ∧ t.kprev = s.io.keys ∧ t.pc = s.pc ∧
      RegsSame s t ∧ OthersSame s { t with run := s.run, kprev := s.kprev }

/-- R184: a Step during the wait: the lowest key that went down since the last sample is stored and the machine runs
on; with no such key only the latch changes (D18, D19; log entries 1 and 2). -/
def Obligations.KeyPollEndsTheWaitOnANewKey : Prop :=
  ∀ (s : State) (keys : Word) (x : RegIdx), s.nextEvent = .step keys → s.run = .awaitingKey x →
    (∀ k, k < 16 → keys.getLsbD k = true → s.kprev.getLsbD k = false →
      (∀ j, j < k → ¬ (keys.getLsbD j = true ∧ s.kprev.getLsbD j = false)) →
      ∃ t, step s = .next t ∧ (t.reg x).toNat = k ∧ RegsSameBut x s t ∧ t.pc = s.pc + 2 ∧
        t.run = .running ∧ t.kprev = keys ∧ t.io = sampled s keys ∧
        OthersSame s { t with run := s.run, kprev := s.kprev, io := s.io }) ∧
    ((∀ k, k < 16 → ¬ (keys.getLsbD k = true ∧ s.kprev.getLsbD k = false)) →
      step s = .next { s with kprev := keys, io := sampled s keys })

/-- R187: a Tick decrements each timer that is not zero, in every run state (D20), and changes nothing else (the
schedule is the model's choice, log entry 1). -/
def Obligations.TickDecrementsTheTimers : Prop :=
  ∀ s : State, s.nextEvent = .tick →
    ∃ t, step s = .next t ∧ t.DT.toNat = s.DT.toNat - 1 ∧ t.ST.toNat = s.ST.toNat - 1 ∧ t.pc = s.pc ∧
      t.io = popped s ∧ RegsSame s t ∧ OthersSame s { t with DT := s.DT, ST := s.ST, io := s.io }

/-- R187, S10: after n ticks a timer has lost n, and never goes below zero (log entry 1). -/
def Obligations.TicksCountDownToZero : Prop :=
  ∀ (n : Nat) (s : State) (rest : List Event), s.io.schedule = List.replicate n Event.tick ++ rest →
    ∃ t, Host.Core.run Sys2Proof.core n s = .next t ∧
      t.DT.toNat = s.DT.toNat - n ∧ t.ST.toNat = s.ST.toNat - n ∧ t.io.schedule = rest ∧
      t.pc = s.pc ∧ RegsSame s t ∧ OthersSame s { t with DT := s.DT, ST := s.ST, io := s.io }

/-- R188: AdvanceTime makes (tacc + dt) div TICK_PERIOD ticks and keeps the remainder (D20; log entries 1 and 4). -/
def Obligations.AdvanceTimeTicksAndKeepsTheRemainder : Prop :=
  ∀ (s : State) (dt p : Nat), s.nextEvent = .advance dt → s.cfg.tickPeriod = some p → 1 ≤ p →
    ∃ t, step s = .next t ∧ t.tacc = (s.tacc + dt) % p ∧
      t.DT.toNat = s.DT.toNat - (s.tacc + dt) / p ∧ t.ST.toNat = s.ST.toNat - (s.tacc + dt) / p ∧
      t.pc = s.pc ∧ t.io = popped s ∧ RegsSame s t ∧
      OthersSame s { t with DT := s.DT, ST := s.ST, tacc := s.tacc, io := s.io }

/-! ## The host's operations (70_reset_and_hazards.md, 60_exceptions.md) -/

/-- R233: Start resets everything, loads the image at 0x200 and runs; an image over 3584 bytes leaves the state as it
was (the spec's decision D21; log entries 1, 8 and 9). The font stands at FONT_BASE, for every FONT_BASE in its range
(R31, R230; its bytes and place are the spec's decision D17, log entry 7), and every other byte outside the image is 0. -/
def Obligations.StartResetsLoadsAndRuns : Prop :=
  ∀ (s : State) (image : List Byte), s.nextEvent = .start image →
    (image.length ≤ 3584 →
      ∃ t, step s = .next t ∧ t.run = .running ∧ t.pc = 0x200 ∧
        (∀ k, k < image.length → image[k]? = some (t.byteAt (0x200 + k))) ∧
        (s.cfg.fontBase ≤ 0x1B0 →
          ∀ d k, d < 16 → k < 5 → glyphByte d k = some (t.byteAt (s.cfg.fontBase + 5 * d + k))) ∧
        (∀ a, a < s.cfg.fontBase ∨ s.cfg.fontBase + 80 ≤ a → a < 0x200 ∨ 0x200 + image.length ≤ a →
          t.byteAt a = 0) ∧
        (∀ r, t.reg r = 0) ∧ t.I = 0 ∧ t.sp = 0 ∧ t.stack = List.replicate s.cfg.stackCapacity 0 ∧
        (∀ x y, t.fb.pixel x y = false) ∧ t.DT = 0 ∧ t.ST = 0 ∧ t.fault = none ∧ t.kprev = 0 ∧
        t.tacc = 0 ∧ t.cfg = s.cfg ∧ t.io = popped s) ∧
    (3584 < image.length → step s = .next { s with io := popped s })

/-- R234: Stop sets Stopped from any state and changes nothing else (the spec's decision D23; log entry 1). -/
def Obligations.StopOnlyStops : Prop :=
  ∀ s : State, s.nextEvent = .stop → step s = .next { s with run := .stopped, io := popped s }

/-- R207: while Halted only Start and Stop leave the state; every other step keeps the record, `pc`, the registers, the
framebuffer, the stack and memory (D23). -/
def Obligations.HaltedIsLeftOnlyByStartOrStop : Prop :=
  ∀ s t : State, s.run = .halted → step s = .next t →
    (∀ image, s.nextEvent ≠ .start image) → s.nextEvent ≠ .stop →
    t.run = .halted ∧ t.fault = s.fault ∧ t.pc = s.pc ∧ RegsSame s t ∧ (∀ a, t.byteAt a = s.byteAt a) ∧
      t.fb = s.fb ∧ t.stack = s.stack ∧ t.sp = s.sp ∧ t.I = s.I

/-- R59: a byte of memory changes only in Start, or in a Step of a Running machine whose word is FX33 or FX55, and then
within 16 bytes from I. The timer engine, Stop and the key poll never touch memory. -/
def Obligations.OnlyStartAndStoresChangeMemory : Prop :=
  ∀ (s t : State) (a : Nat), step s = .next t → t.byteAt a ≠ s.byteAt a →
    (∃ image, s.nextEvent = .start image) ∨
    (∃ keys x, s.nextEvent = .step keys ∧ s.run = .running ∧
      (decode (wordAtPc s) = some (.ldB x) ∨ decode (wordAtPc s) = some (.ldMemVx x)) ∧
      s.indexAddr ≤ a ∧ a < s.indexAddr + 16 ∧ a < 4096)
end

