-- ==== Sys2Proof/Laws/State.lean ====
section
/-! SUPPORT. One lemma per field per update of the state, so that no proof unfolds a record update; for each update
also what the one-register and one-byte reads see. -/

namespace Sys2Proof.Machine

/-- The sizes of R6 as numerals, for arithmetic. -/
theorem memSize_eq : memSize = 4096 := rfl
theorem loadBase_eq : loadBase = 512 := rfl

/-! ## setReg -/

@[simp] theorem State.setReg_mem (s : State) (x : RegIdx) (v : Byte) : (s.setReg x v).mem = s.mem := rfl
@[simp] theorem State.setReg_V (s : State) (x : RegIdx) (v : Byte) : (s.setReg x v).V = s.V.set x.toNat v x.isLt :=
    rfl
@[simp] theorem State.setReg_I (s : State) (x : RegIdx) (v : Byte) : (s.setReg x v).I = s.I := rfl
@[simp] theorem State.setReg_pc (s : State) (x : RegIdx) (v : Byte) : (s.setReg x v).pc = s.pc := rfl
@[simp] theorem State.setReg_stack (s : State) (x : RegIdx) (v : Byte) : (s.setReg x v).stack = s.stack := rfl
@[simp] theorem State.setReg_sp (s : State) (x : RegIdx) (v : Byte) : (s.setReg x v).sp = s.sp := rfl
@[simp] theorem State.setReg_fb (s : State) (x : RegIdx) (v : Byte) : (s.setReg x v).fb = s.fb := rfl
@[simp] theorem State.setReg_DT (s : State) (x : RegIdx) (v : Byte) : (s.setReg x v).DT = s.DT := rfl
@[simp] theorem State.setReg_ST (s : State) (x : RegIdx) (v : Byte) : (s.setReg x v).ST = s.ST := rfl
@[simp] theorem State.setReg_run (s : State) (x : RegIdx) (v : Byte) : (s.setReg x v).run = s.run := rfl
@[simp] theorem State.setReg_fault (s : State) (x : RegIdx) (v : Byte) : (s.setReg x v).fault = s.fault := rfl
@[simp] theorem State.setReg_kprev (s : State) (x : RegIdx) (v : Byte) : (s.setReg x v).kprev = s.kprev := rfl
@[simp] theorem State.setReg_tacc (s : State) (x : RegIdx) (v : Byte) : (s.setReg x v).tacc = s.tacc := rfl
@[simp] theorem State.setReg_cfg (s : State) (x : RegIdx) (v : Byte) : (s.setReg x v).cfg = s.cfg := rfl
@[simp] theorem State.setReg_io (s : State) (x : RegIdx) (v : Byte) : (s.setReg x v).io = s.io := rfl
@[simp] theorem State.setReg_byteAt (s : State) (x : RegIdx) (v : Byte) (i : Nat) : (s.setReg x v).byteAt i = s.byteAt i := rfl

/-! ## setI -/

@[simp] theorem State.setI_mem (s : State) (v : Word) : (s.setI v).mem = s.mem := rfl
@[simp] theorem State.setI_V (s : State) (v : Word) : (s.setI v).V = s.V := rfl
@[simp] theorem State.setI_I (s : State) (v : Word) : (s.setI v).I = v := rfl
@[simp] theorem State.setI_pc (s : State) (v : Word) : (s.setI v).pc = s.pc := rfl
@[simp] theorem State.setI_stack (s : State) (v : Word) : (s.setI v).stack = s.stack := rfl
@[simp] theorem State.setI_sp (s : State) (v : Word) : (s.setI v).sp = s.sp := rfl
@[simp] theorem State.setI_fb (s : State) (v : Word) : (s.setI v).fb = s.fb := rfl
@[simp] theorem State.setI_DT (s : State) (v : Word) : (s.setI v).DT = s.DT := rfl
@[simp] theorem State.setI_ST (s : State) (v : Word) : (s.setI v).ST = s.ST := rfl
@[simp] theorem State.setI_run (s : State) (v : Word) : (s.setI v).run = s.run := rfl
@[simp] theorem State.setI_fault (s : State) (v : Word) : (s.setI v).fault = s.fault := rfl
@[simp] theorem State.setI_kprev (s : State) (v : Word) : (s.setI v).kprev = s.kprev := rfl
@[simp] theorem State.setI_tacc (s : State) (v : Word) : (s.setI v).tacc = s.tacc := rfl
@[simp] theorem State.setI_cfg (s : State) (v : Word) : (s.setI v).cfg = s.cfg := rfl
@[simp] theorem State.setI_io (s : State) (v : Word) : (s.setI v).io = s.io := rfl
@[simp] theorem State.setI_reg (s : State) (v : Word) (r : RegIdx) : (s.setI v).reg r = s.reg r := rfl
@[simp] theorem State.setI_byteAt (s : State) (v : Word) (i : Nat) : (s.setI v).byteAt i = s.byteAt i := rfl

/-! ## setDT -/

@[simp] theorem State.setDT_mem (s : State) (v : Byte) : (s.setDT v).mem = s.mem := rfl
@[simp] theorem State.setDT_V (s : State) (v : Byte) : (s.setDT v).V = s.V := rfl
@[simp] theorem State.setDT_I (s : State) (v : Byte) : (s.setDT v).I = s.I := rfl
@[simp] theorem State.setDT_pc (s : State) (v : Byte) : (s.setDT v).pc = s.pc := rfl
@[simp] theorem State.setDT_stack (s : State) (v : Byte) : (s.setDT v).stack = s.stack := rfl
@[simp] theorem State.setDT_sp (s : State) (v : Byte) : (s.setDT v).sp = s.sp := rfl
@[simp] theorem State.setDT_fb (s : State) (v : Byte) : (s.setDT v).fb = s.fb := rfl
@[simp] theorem State.setDT_DT (s : State) (v : Byte) : (s.setDT v).DT = v := rfl
@[simp] theorem State.setDT_ST (s : State) (v : Byte) : (s.setDT v).ST = s.ST := rfl
@[simp] theorem State.setDT_run (s : State) (v : Byte) : (s.setDT v).run = s.run := rfl
@[simp] theorem State.setDT_fault (s : State) (v : Byte) : (s.setDT v).fault = s.fault := rfl
@[simp] theorem State.setDT_kprev (s : State) (v : Byte) : (s.setDT v).kprev = s.kprev := rfl
@[simp] theorem State.setDT_tacc (s : State) (v : Byte) : (s.setDT v).tacc = s.tacc := rfl
@[simp] theorem State.setDT_cfg (s : State) (v : Byte) : (s.setDT v).cfg = s.cfg := rfl
@[simp] theorem State.setDT_io (s : State) (v : Byte) : (s.setDT v).io = s.io := rfl
@[simp] theorem State.setDT_reg (s : State) (v : Byte) (r : RegIdx) : (s.setDT v).reg r = s.reg r := rfl
@[simp] theorem State.setDT_byteAt (s : State) (v : Byte) (i : Nat) : (s.setDT v).byteAt i = s.byteAt i := rfl

/-! ## setST -/

@[simp] theorem State.setST_mem (s : State) (v : Byte) : (s.setST v).mem = s.mem := rfl
@[simp] theorem State.setST_V (s : State) (v : Byte) : (s.setST v).V = s.V := rfl
@[simp] theorem State.setST_I (s : State) (v : Byte) : (s.setST v).I = s.I := rfl
@[simp] theorem State.setST_pc (s : State) (v : Byte) : (s.setST v).pc = s.pc := rfl
@[simp] theorem State.setST_stack (s : State) (v : Byte) : (s.setST v).stack = s.stack := rfl
@[simp] theorem State.setST_sp (s : State) (v : Byte) : (s.setST v).sp = s.sp := rfl
@[simp] theorem State.setST_fb (s : State) (v : Byte) : (s.setST v).fb = s.fb := rfl
@[simp] theorem State.setST_DT (s : State) (v : Byte) : (s.setST v).DT = s.DT := rfl
@[simp] theorem State.setST_ST (s : State) (v : Byte) : (s.setST v).ST = v := rfl
@[simp] theorem State.setST_run (s : State) (v : Byte) : (s.setST v).run = s.run := rfl
@[simp] theorem State.setST_fault (s : State) (v : Byte) : (s.setST v).fault = s.fault := rfl
@[simp] theorem State.setST_kprev (s : State) (v : Byte) : (s.setST v).kprev = s.kprev := rfl
@[simp] theorem State.setST_tacc (s : State) (v : Byte) : (s.setST v).tacc = s.tacc := rfl
@[simp] theorem State.setST_cfg (s : State) (v : Byte) : (s.setST v).cfg = s.cfg := rfl
@[simp] theorem State.setST_io (s : State) (v : Byte) : (s.setST v).io = s.io := rfl
@[simp] theorem State.setST_reg (s : State) (v : Byte) (r : RegIdx) : (s.setST v).reg r = s.reg r := rfl
@[simp] theorem State.setST_byteAt (s : State) (v : Byte) (i : Nat) : (s.setST v).byteAt i = s.byteAt i := rfl

/-! ## setPc -/

@[simp] theorem State.setPc_mem (s : State) (v : Word) : (s.setPc v).mem = s.mem := rfl
@[simp] theorem State.setPc_V (s : State) (v : Word) : (s.setPc v).V = s.V := rfl
@[simp] theorem State.setPc_I (s : State) (v : Word) : (s.setPc v).I = s.I := rfl
@[simp] theorem State.setPc_pc (s : State) (v : Word) : (s.setPc v).pc = v := rfl
@[simp] theorem State.setPc_stack (s : State) (v : Word) : (s.setPc v).stack = s.stack := rfl
@[simp] theorem State.setPc_sp (s : State) (v : Word) : (s.setPc v).sp = s.sp := rfl
@[simp] theorem State.setPc_fb (s : State) (v : Word) : (s.setPc v).fb = s.fb := rfl
@[simp] theorem State.setPc_DT (s : State) (v : Word) : (s.setPc v).DT = s.DT := rfl
@[simp] theorem State.setPc_ST (s : State) (v : Word) : (s.setPc v).ST = s.ST := rfl
@[simp] theorem State.setPc_run (s : State) (v : Word) : (s.setPc v).run = s.run := rfl
@[simp] theorem State.setPc_fault (s : State) (v : Word) : (s.setPc v).fault = s.fault := rfl
@[simp] theorem State.setPc_kprev (s : State) (v : Word) : (s.setPc v).kprev = s.kprev := rfl
@[simp] theorem State.setPc_tacc (s : State) (v : Word) : (s.setPc v).tacc = s.tacc := rfl
@[simp] theorem State.setPc_cfg (s : State) (v : Word) : (s.setPc v).cfg = s.cfg := rfl
@[simp] theorem State.setPc_io (s : State) (v : Word) : (s.setPc v).io = s.io := rfl
@[simp] theorem State.setPc_reg (s : State) (v : Word) (r : RegIdx) : (s.setPc v).reg r = s.reg r := rfl
@[simp] theorem State.setPc_byteAt (s : State) (v : Word) (i : Nat) : (s.setPc v).byteAt i = s.byteAt i := rfl

/-! ## advance -/

@[simp] theorem State.advance_mem (s : State) : (s.advance).mem = s.mem := rfl
@[simp] theorem State.advance_V (s : State) : (s.advance).V = s.V := rfl
@[simp] theorem State.advance_I (s : State) : (s.advance).I = s.I := rfl
@[simp] theorem State.advance_pc (s : State) : (s.advance).pc = s.pc + 2 := rfl
@[simp] theorem State.advance_stack (s : State) : (s.advance).stack = s.stack := rfl
@[simp] theorem State.advance_sp (s : State) : (s.advance).sp = s.sp := rfl
@[simp] theorem State.advance_fb (s : State) : (s.advance).fb = s.fb := rfl
@[simp] theorem State.advance_DT (s : State) : (s.advance).DT = s.DT := rfl
@[simp] theorem State.advance_ST (s : State) : (s.advance).ST = s.ST := rfl
@[simp] theorem State.advance_run (s : State) : (s.advance).run = s.run := rfl
@[simp] theorem State.advance_fault (s : State) : (s.advance).fault = s.fault := rfl
@[simp] theorem State.advance_kprev (s : State) : (s.advance).kprev = s.kprev := rfl
@[simp] theorem State.advance_tacc (s : State) : (s.advance).tacc = s.tacc := rfl
@[simp] theorem State.advance_cfg (s : State) : (s.advance).cfg = s.cfg := rfl
@[simp] theorem State.advance_io (s : State) : (s.advance).io = s.io := rfl
@[simp] theorem State.advance_reg (s : State) (r : RegIdx) : (s.advance).reg r = s.reg r := rfl
@[simp] theorem State.advance_byteAt (s : State) (i : Nat) : (s.advance).byteAt i = s.byteAt i := rfl

/-! ## push -/

@[simp] theorem State.push_mem (s : State) (a : Word) : (s.push a).mem = s.mem := rfl
@[simp] theorem State.push_V (s : State) (a : Word) : (s.push a).V = s.V := rfl
@[simp] theorem State.push_I (s : State) (a : Word) : (s.push a).I = s.I := rfl
@[simp] theorem State.push_pc (s : State) (a : Word) : (s.push a).pc = s.pc := rfl
@[simp] theorem State.push_stack (s : State) (a : Word) : (s.push a).stack = s.stack.set s.sp a := rfl
@[simp] theorem State.push_sp (s : State) (a : Word) : (s.push a).sp = s.sp + 1 := rfl
@[simp] theorem State.push_fb (s : State) (a : Word) : (s.push a).fb = s.fb := rfl
@[simp] theorem State.push_DT (s : State) (a : Word) : (s.push a).DT = s.DT := rfl
@[simp] theorem State.push_ST (s : State) (a : Word) : (s.push a).ST = s.ST := rfl
@[simp] theorem State.push_run (s : State) (a : Word) : (s.push a).run = s.run := rfl
@[simp] theorem State.push_fault (s : State) (a : Word) : (s.push a).fault = s.fault := rfl
@[simp] theorem State.push_kprev (s : State) (a : Word) : (s.push a).kprev = s.kprev := rfl
@[simp] theorem State.push_tacc (s : State) (a : Word) : (s.push a).tacc = s.tacc := rfl
@[simp] theorem State.push_cfg (s : State) (a : Word) : (s.push a).cfg = s.cfg := rfl
@[simp] theorem State.push_io (s : State) (a : Word) : (s.push a).io = s.io := rfl
@[simp] theorem State.push_reg (s : State) (a : Word) (r : RegIdx) : (s.push a).reg r = s.reg r := rfl
@[simp] theorem State.push_byteAt (s : State) (a : Word) (i : Nat) : (s.push a).byteAt i = s.byteAt i := rfl

/-! ## pop -/

@[simp] theorem State.pop_mem (s : State) : (s.pop).mem = s.mem := rfl
@[simp] theorem State.pop_V (s : State) : (s.pop).V = s.V := rfl
@[simp] theorem State.pop_I (s : State) : (s.pop).I = s.I := rfl
@[simp] theorem State.pop_pc (s : State) : (s.pop).pc = s.pc := rfl
@[simp] theorem State.pop_stack (s : State) : (s.pop).stack = s.stack := rfl
@[simp] theorem State.pop_sp (s : State) : (s.pop).sp = s.sp - 1 := rfl
@[simp] theorem State.pop_fb (s : State) : (s.pop).fb = s.fb := rfl
@[simp] theorem State.pop_DT (s : State) : (s.pop).DT = s.DT := rfl
@[simp] theorem State.pop_ST (s : State) : (s.pop).ST = s.ST := rfl
@[simp] theorem State.pop_run (s : State) : (s.pop).run = s.run := rfl
@[simp] theorem State.pop_fault (s : State) : (s.pop).fault = s.fault := rfl
@[simp] theorem State.pop_kprev (s : State) : (s.pop).kprev = s.kprev := rfl
@[simp] theorem State.pop_tacc (s : State) : (s.pop).tacc = s.tacc := rfl
@[simp] theorem State.pop_cfg (s : State) : (s.pop).cfg = s.cfg := rfl
@[simp] theorem State.pop_io (s : State) : (s.pop).io = s.io := rfl
@[simp] theorem State.pop_reg (s : State) (r : RegIdx) : (s.pop).reg r = s.reg r := rfl
@[simp] theorem State.pop_byteAt (s : State) (i : Nat) : (s.pop).byteAt i = s.byteAt i := rfl

/-! ## drawRand -/

@[simp] theorem State.drawRand_mem (s : State) : (s.drawRand).mem = s.mem := rfl
@[simp] theorem State.drawRand_V (s : State) : (s.drawRand).V = s.V := rfl
@[simp] theorem State.drawRand_I (s : State) : (s.drawRand).I = s.I := rfl
@[simp] theorem State.drawRand_pc (s : State) : (s.drawRand).pc = s.pc := rfl
@[simp] theorem State.drawRand_stack (s : State) : (s.drawRand).stack = s.stack := rfl
@[simp] theorem State.drawRand_sp (s : State) : (s.drawRand).sp = s.sp := rfl
@[simp] theorem State.drawRand_fb (s : State) : (s.drawRand).fb = s.fb := rfl
@[simp] theorem State.drawRand_DT (s : State) : (s.drawRand).DT = s.DT := rfl
@[simp] theorem State.drawRand_ST (s : State) : (s.drawRand).ST = s.ST := rfl
@[simp] theorem State.drawRand_run (s : State) : (s.drawRand).run = s.run := rfl
@[simp] theorem State.drawRand_fault (s : State) : (s.drawRand).fault = s.fault := rfl
@[simp] theorem State.drawRand_kprev (s : State) : (s.drawRand).kprev = s.kprev := rfl
@[simp] theorem State.drawRand_tacc (s : State) : (s.drawRand).tacc = s.tacc := rfl
@[simp] theorem State.drawRand_cfg (s : State) : (s.drawRand).cfg = s.cfg := rfl
@[simp] theorem State.drawRand_io (s : State) :
    (s.drawRand).io = { s.io with rands := s.io.rands.tail, draws := s.io.draws + 1 } := rfl
@[simp] theorem State.drawRand_reg (s : State) (r : RegIdx) : (s.drawRand).reg r = s.reg r := rfl
@[simp] theorem State.drawRand_byteAt (s : State) (i : Nat) : (s.drawRand).byteAt i = s.byteAt i := rfl

/-! ## raise -/

@[simp] theorem State.raise_mem (s : State) (k : FaultKind) (w : Option Word) : (s.raise k w).mem = s.mem := rfl
@[simp] theorem State.raise_V (s : State) (k : FaultKind) (w : Option Word) : (s.raise k w).V = s.V := rfl
@[simp] theorem State.raise_I (s : State) (k : FaultKind) (w : Option Word) : (s.raise k w).I = s.I := rfl
@[simp] theorem State.raise_pc (s : State) (k : FaultKind) (w : Option Word) : (s.raise k w).pc = s.pc := rfl
@[simp] theorem State.raise_stack (s : State) (k : FaultKind) (w : Option Word) : (s.raise k w).stack = s.stack := rfl
@[simp] theorem State.raise_sp (s : State) (k : FaultKind) (w : Option Word) : (s.raise k w).sp = s.sp := rfl
@[simp] theorem State.raise_fb (s : State) (k : FaultKind) (w : Option Word) : (s.raise k w).fb = s.fb := rfl
@[simp] theorem State.raise_DT (s : State) (k : FaultKind) (w : Option Word) : (s.raise k w).DT = s.DT := rfl
@[simp] theorem State.raise_ST (s : State) (k : FaultKind) (w : Option Word) : (s.raise k w).ST = s.ST := rfl
@[simp] theorem State.raise_run (s : State) (k : FaultKind) (w : Option Word) : (s.raise k w).run = .halted := rfl
@[simp] theorem State.raise_fault (s : State) (k : FaultKind) (w : Option Word) :
    (s.raise k w).fault = some { kind := k, addr := s.pc, word := w } := rfl
@[simp] theorem State.raise_kprev (s : State) (k : FaultKind) (w : Option Word) : (s.raise k w).kprev = s.kprev := rfl
@[simp] theorem State.raise_tacc (s : State) (k : FaultKind) (w : Option Word) : (s.raise k w).tacc = s.tacc := rfl
@[simp] theorem State.raise_cfg (s : State) (k : FaultKind) (w : Option Word) : (s.raise k w).cfg = s.cfg := rfl
@[simp] theorem State.raise_io (s : State) (k : FaultKind) (w : Option Word) : (s.raise k w).io = s.io := rfl
@[simp] theorem State.raise_reg (s : State) (k : FaultKind) (w : Option Word) (r : RegIdx) : (s.raise k w).reg r = s.reg r := rfl
@[simp] theorem State.raise_byteAt (s : State) (k : FaultKind) (w : Option Word) (i : Nat) : (s.raise k w).byteAt i = s.byteAt i := rfl

/-! ## report -/

@[simp] theorem State.report_mem (s : State) (w : Word) : (s.report w).mem = s.mem := rfl
@[simp] theorem State.report_V (s : State) (w : Word) : (s.report w).V = s.V := rfl
@[simp] theorem State.report_I (s : State) (w : Word) : (s.report w).I = s.I := rfl
@[simp] theorem State.report_pc (s : State) (w : Word) : (s.report w).pc = s.pc := rfl
@[simp] theorem State.report_stack (s : State) (w : Word) : (s.report w).stack = s.stack := rfl
@[simp] theorem State.report_sp (s : State) (w : Word) : (s.report w).sp = s.sp := rfl
@[simp] theorem State.report_fb (s : State) (w : Word) : (s.report w).fb = s.fb := rfl
@[simp] theorem State.report_DT (s : State) (w : Word) : (s.report w).DT = s.DT := rfl
@[simp] theorem State.report_ST (s : State) (w : Word) : (s.report w).ST = s.ST := rfl
@[simp] theorem State.report_run (s : State) (w : Word) : (s.report w).run = s.run := rfl
@[simp] theorem State.report_fault (s : State) (w : Word) : (s.report w).fault = s.fault := rfl
@[simp] theorem State.report_kprev (s : State) (w : Word) : (s.report w).kprev = s.kprev := rfl
@[simp] theorem State.report_tacc (s : State) (w : Word) : (s.report w).tacc = s.tacc := rfl
@[simp] theorem State.report_cfg (s : State) (w : Word) : (s.report w).cfg = s.cfg := rfl
@[simp] theorem State.report_io (s : State) (w : Word) :
    (s.report w).io = { s.io with reports := { kind := .unknownOpcode, addr := s.pc, word := some w } :: s.io.reports } := rfl
@[simp] theorem State.report_reg (s : State) (w : Word) (r : RegIdx) : (s.report w).reg r = s.reg r := rfl
@[simp] theorem State.report_byteAt (s : State) (w : Word) (i : Nat) : (s.report w).byteAt i = s.byteAt i := rfl

/-! ## loadRegs -/

@[simp] theorem State.loadRegs_mem (s : State) (bs : List Byte) : (s.loadRegs bs).mem = s.mem := rfl
@[simp] theorem State.loadRegs_V (s : State) (bs : List Byte) :
    (s.loadRegs bs).V = Vector.ofFn fun r : Fin 16 => (bs[r.val]?).getD s.V[r] := rfl
@[simp] theorem State.loadRegs_I (s : State) (bs : List Byte) : (s.loadRegs bs).I = s.I := rfl
@[simp] theorem State.loadRegs_pc (s : State) (bs : List Byte) : (s.loadRegs bs).pc = s.pc := rfl
@[simp] theorem State.loadRegs_stack (s : State) (bs : List Byte) : (s.loadRegs bs).stack = s.stack := rfl
@[simp] theorem State.loadRegs_sp (s : State) (bs : List Byte) : (s.loadRegs bs).sp = s.sp := rfl
@[simp] theorem State.loadRegs_fb (s : State) (bs : List Byte) : (s.loadRegs bs).fb = s.fb := rfl
@[simp] theorem State.loadRegs_DT (s : State) (bs : List Byte) : (s.loadRegs bs).DT = s.DT := rfl
@[simp] theorem State.loadRegs_ST (s : State) (bs : List Byte) : (s.loadRegs bs).ST = s.ST := rfl
@[simp] theorem State.loadRegs_run (s : State) (bs : List Byte) : (s.loadRegs bs).run = s.run := rfl
@[simp] theorem State.loadRegs_fault (s : State) (bs : List Byte) : (s.loadRegs bs).fault = s.fault := rfl
@[simp] theorem State.loadRegs_kprev (s : State) (bs : List Byte) : (s.loadRegs bs).kprev = s.kprev := rfl
@[simp] theorem State.loadRegs_tacc (s : State) (bs : List Byte) : (s.loadRegs bs).tacc = s.tacc := rfl
@[simp] theorem State.loadRegs_cfg (s : State) (bs : List Byte) : (s.loadRegs bs).cfg = s.cfg := rfl
@[simp] theorem State.loadRegs_io (s : State) (bs : List Byte) : (s.loadRegs bs).io = s.io := rfl
@[simp] theorem State.loadRegs_byteAt (s : State) (bs : List Byte) (i : Nat) : (s.loadRegs bs).byteAt i = s.byteAt i := rfl

/-! ## setFb -/

@[simp] theorem State.setFb_mem (s : State) (f : Framebuffer) : (s.setFb f).mem = s.mem := rfl
@[simp] theorem State.setFb_V (s : State) (f : Framebuffer) : (s.setFb f).V = s.V := rfl
@[simp] theorem State.setFb_I (s : State) (f : Framebuffer) : (s.setFb f).I = s.I := rfl
@[simp] theorem State.setFb_pc (s : State) (f : Framebuffer) : (s.setFb f).pc = s.pc := rfl
@[simp] theorem State.setFb_stack (s : State) (f : Framebuffer) : (s.setFb f).stack = s.stack := rfl
@[simp] theorem State.setFb_sp (s : State) (f : Framebuffer) : (s.setFb f).sp = s.sp := rfl
@[simp] theorem State.setFb_fb (s : State) (f : Framebuffer) : (s.setFb f).fb = f := rfl
@[simp] theorem State.setFb_DT (s : State) (f : Framebuffer) : (s.setFb f).DT = s.DT := rfl
@[simp] theorem State.setFb_ST (s : State) (f : Framebuffer) : (s.setFb f).ST = s.ST := rfl
@[simp] theorem State.setFb_run (s : State) (f : Framebuffer) : (s.setFb f).run = s.run := rfl
@[simp] theorem State.setFb_fault (s : State) (f : Framebuffer) : (s.setFb f).fault = s.fault := rfl
@[simp] theorem State.setFb_kprev (s : State) (f : Framebuffer) : (s.setFb f).kprev = s.kprev := rfl
@[simp] theorem State.setFb_tacc (s : State) (f : Framebuffer) : (s.setFb f).tacc = s.tacc := rfl
@[simp] theorem State.setFb_cfg (s : State) (f : Framebuffer) : (s.setFb f).cfg = s.cfg := rfl
@[simp] theorem State.setFb_io (s : State) (f : Framebuffer) : (s.setFb f).io = s.io := rfl
@[simp] theorem State.setFb_reg (s : State) (f : Framebuffer) (r : RegIdx) : (s.setFb f).reg r = s.reg r := rfl
@[simp] theorem State.setFb_byteAt (s : State) (f : Framebuffer) (i : Nat) : (s.setFb f).byteAt i = s.byteAt i := rfl

/-! ## enterWait -/

@[simp] theorem State.enterWait_mem (s : State) (x : RegIdx) : (s.enterWait x).mem = s.mem := rfl
@[simp] theorem State.enterWait_V (s : State) (x : RegIdx) : (s.enterWait x).V = s.V := rfl
@[simp] theorem State.enterWait_I (s : State) (x : RegIdx) : (s.enterWait x).I = s.I := rfl
@[simp] theorem State.enterWait_pc (s : State) (x : RegIdx) : (s.enterWait x).pc = s.pc := rfl
@[simp] theorem State.enterWait_stack (s : State) (x : RegIdx) : (s.enterWait x).stack = s.stack := rfl
@[simp] theorem State.enterWait_sp (s : State) (x : RegIdx) : (s.enterWait x).sp = s.sp := rfl
@[simp] theorem State.enterWait_fb (s : State) (x : RegIdx) : (s.enterWait x).fb = s.fb := rfl
@[simp] theorem State.enterWait_DT (s : State) (x : RegIdx) : (s.enterWait x).DT = s.DT := rfl
@[simp] theorem State.enterWait_ST (s : State) (x : RegIdx) : (s.enterWait x).ST = s.ST := rfl
@[simp] theorem State.enterWait_run (s : State) (x : RegIdx) : (s.enterWait x).run = .awaitingKey x := rfl
@[simp] theorem State.enterWait_fault (s : State) (x : RegIdx) : (s.enterWait x).fault = s.fault := rfl
@[simp] theorem State.enterWait_kprev (s : State) (x : RegIdx) : (s.enterWait x).kprev = s.io.keys := rfl
@[simp] theorem State.enterWait_tacc (s : State) (x : RegIdx) : (s.enterWait x).tacc = s.tacc := rfl
@[simp] theorem State.enterWait_cfg (s : State) (x : RegIdx) : (s.enterWait x).cfg = s.cfg := rfl
@[simp] theorem State.enterWait_io (s : State) (x : RegIdx) : (s.enterWait x).io = s.io := rfl
@[simp] theorem State.enterWait_reg (s : State) (x : RegIdx) (r : RegIdx) : (s.enterWait x).reg r = s.reg r := rfl
@[simp] theorem State.enterWait_byteAt (s : State) (x : RegIdx) (i : Nat) : (s.enterWait x).byteAt i = s.byteAt i := rfl

/-! ## latchKeys -/

@[simp] theorem State.latchKeys_mem (s : State) : (s.latchKeys).mem = s.mem := rfl
@[simp] theorem State.latchKeys_V (s : State) : (s.latchKeys).V = s.V := rfl
@[simp] theorem State.latchKeys_I (s : State) : (s.latchKeys).I = s.I := rfl
@[simp] theorem State.latchKeys_pc (s : State) : (s.latchKeys).pc = s.pc := rfl
@[simp] theorem State.latchKeys_stack (s : State) : (s.latchKeys).stack = s.stack := rfl
@[simp] theorem State.latchKeys_sp (s : State) : (s.latchKeys).sp = s.sp := rfl
@[simp] theorem State.latchKeys_fb (s : State) : (s.latchKeys).fb = s.fb := rfl
@[simp] theorem State.latchKeys_DT (s : State) : (s.latchKeys).DT = s.DT := rfl
@[simp] theorem State.latchKeys_ST (s : State) : (s.latchKeys).ST = s.ST := rfl
@[simp] theorem State.latchKeys_run (s : State) : (s.latchKeys).run = s.run := rfl
@[simp] theorem State.latchKeys_fault (s : State) : (s.latchKeys).fault = s.fault := rfl
@[simp] theorem State.latchKeys_kprev (s : State) : (s.latchKeys).kprev = s.io.keys := rfl
@[simp] theorem State.latchKeys_tacc (s : State) : (s.latchKeys).tacc = s.tacc := rfl
@[simp] theorem State.latchKeys_cfg (s : State) : (s.latchKeys).cfg = s.cfg := rfl
@[simp] theorem State.latchKeys_io (s : State) : (s.latchKeys).io = s.io := rfl
@[simp] theorem State.latchKeys_reg (s : State) (r : RegIdx) : (s.latchKeys).reg r = s.reg r := rfl
@[simp] theorem State.latchKeys_byteAt (s : State) (i : Nat) : (s.latchKeys).byteAt i = s.byteAt i := rfl

/-! ## setRun -/

@[simp] theorem State.setRun_mem (s : State) (r : RunState) : (s.setRun r).mem = s.mem := rfl
@[simp] theorem State.setRun_V (s : State) (r : RunState) : (s.setRun r).V = s.V := rfl
@[simp] theorem State.setRun_I (s : State) (r : RunState) : (s.setRun r).I = s.I := rfl
@[simp] theorem State.setRun_pc (s : State) (r : RunState) : (s.setRun r).pc = s.pc := rfl
@[simp] theorem State.setRun_stack (s : State) (r : RunState) : (s.setRun r).stack = s.stack := rfl
@[simp] theorem State.setRun_sp (s : State) (r : RunState) : (s.setRun r).sp = s.sp := rfl
@[simp] theorem State.setRun_fb (s : State) (r : RunState) : (s.setRun r).fb = s.fb := rfl
@[simp] theorem State.setRun_DT (s : State) (r : RunState) : (s.setRun r).DT = s.DT := rfl
@[simp] theorem State.setRun_ST (s : State) (r : RunState) : (s.setRun r).ST = s.ST := rfl
@[simp] theorem State.setRun_run (s : State) (r : RunState) : (s.setRun r).run = r := rfl
@[simp] theorem State.setRun_fault (s : State) (r : RunState) : (s.setRun r).fault = s.fault := rfl
@[simp] theorem State.setRun_kprev (s : State) (r : RunState) : (s.setRun r).kprev = s.kprev := rfl
@[simp] theorem State.setRun_tacc (s : State) (r : RunState) : (s.setRun r).tacc = s.tacc := rfl
@[simp] theorem State.setRun_cfg (s : State) (r : RunState) : (s.setRun r).cfg = s.cfg := rfl
@[simp] theorem State.setRun_io (s : State) (r : RunState) : (s.setRun r).io = s.io := rfl
@[simp] theorem State.setRun_reg (s : State) (r : RunState) (q : RegIdx) : (s.setRun r).reg q = s.reg q := rfl
@[simp] theorem State.setRun_byteAt (s : State) (r : RunState) (i : Nat) : (s.setRun r).byteAt i = s.byteAt i := rfl

/-! ## setTacc -/

@[simp] theorem State.setTacc_mem (s : State) (n : Nat) : (s.setTacc n).mem = s.mem := rfl
@[simp] theorem State.setTacc_V (s : State) (n : Nat) : (s.setTacc n).V = s.V := rfl
@[simp] theorem State.setTacc_I (s : State) (n : Nat) : (s.setTacc n).I = s.I := rfl
@[simp] theorem State.setTacc_pc (s : State) (n : Nat) : (s.setTacc n).pc = s.pc := rfl
@[simp] theorem State.setTacc_stack (s : State) (n : Nat) : (s.setTacc n).stack = s.stack := rfl
@[simp] theorem State.setTacc_sp (s : State) (n : Nat) : (s.setTacc n).sp = s.sp := rfl
@[simp] theorem State.setTacc_fb (s : State) (n : Nat) : (s.setTacc n).fb = s.fb := rfl
@[simp] theorem State.setTacc_DT (s : State) (n : Nat) : (s.setTacc n).DT = s.DT := rfl
@[simp] theorem State.setTacc_ST (s : State) (n : Nat) : (s.setTacc n).ST = s.ST := rfl
@[simp] theorem State.setTacc_run (s : State) (n : Nat) : (s.setTacc n).run = s.run := rfl
@[simp] theorem State.setTacc_fault (s : State) (n : Nat) : (s.setTacc n).fault = s.fault := rfl
@[simp] theorem State.setTacc_kprev (s : State) (n : Nat) : (s.setTacc n).kprev = s.kprev := rfl
@[simp] theorem State.setTacc_tacc (s : State) (n : Nat) : (s.setTacc n).tacc = n := rfl
@[simp] theorem State.setTacc_cfg (s : State) (n : Nat) : (s.setTacc n).cfg = s.cfg := rfl
@[simp] theorem State.setTacc_io (s : State) (n : Nat) : (s.setTacc n).io = s.io := rfl
@[simp] theorem State.setTacc_reg (s : State) (n : Nat) (r : RegIdx) : (s.setTacc n).reg r = s.reg r := rfl
@[simp] theorem State.setTacc_byteAt (s : State) (n : Nat) (i : Nat) : (s.setTacc n).byteAt i = s.byteAt i := rfl

/-! ## popEvent -/

@[simp] theorem State.popEvent_mem (s : State) : (s.popEvent).mem = s.mem := rfl
@[simp] theorem State.popEvent_V (s : State) : (s.popEvent).V = s.V := rfl
@[simp] theorem State.popEvent_I (s : State) : (s.popEvent).I = s.I := rfl
@[simp] theorem State.popEvent_pc (s : State) : (s.popEvent).pc = s.pc := rfl
@[simp] theorem State.popEvent_stack (s : State) : (s.popEvent).stack = s.stack := rfl
@[simp] theorem State.popEvent_sp (s : State) : (s.popEvent).sp = s.sp := rfl
@[simp] theorem State.popEvent_fb (s : State) : (s.popEvent).fb = s.fb := rfl
@[simp] theorem State.popEvent_DT (s : State) : (s.popEvent).DT = s.DT := rfl
@[simp] theorem State.popEvent_ST (s : State) : (s.popEvent).ST = s.ST := rfl
@[simp] theorem State.popEvent_run (s : State) : (s.popEvent).run = s.run := rfl
@[simp] theorem State.popEvent_fault (s : State) : (s.popEvent).fault = s.fault := rfl
@[simp] theorem State.popEvent_kprev (s : State) : (s.popEvent).kprev = s.kprev := rfl
@[simp] theorem State.popEvent_tacc (s : State) : (s.popEvent).tacc = s.tacc := rfl
@[simp] theorem State.popEvent_cfg (s : State) : (s.popEvent).cfg = s.cfg := rfl
@[simp] theorem State.popEvent_io (s : State) :
    (s.popEvent).io = { s.io with schedule := s.io.schedule.tail, events := s.io.events + 1 } := rfl
@[simp] theorem State.popEvent_reg (s : State) (r : RegIdx) : (s.popEvent).reg r = s.reg r := rfl
@[simp] theorem State.popEvent_byteAt (s : State) (i : Nat) : (s.popEvent).byteAt i = s.byteAt i := rfl

/-! ## sampleKeys -/

@[simp] theorem State.sampleKeys_mem (s : State) (k : Word) : (s.sampleKeys k).mem = s.mem := rfl
@[simp] theorem State.sampleKeys_V (s : State) (k : Word) : (s.sampleKeys k).V = s.V := rfl
@[simp] theorem State.sampleKeys_I (s : State) (k : Word) : (s.sampleKeys k).I = s.I := rfl
@[simp] theorem State.sampleKeys_pc (s : State) (k : Word) : (s.sampleKeys k).pc = s.pc := rfl
@[simp] theorem State.sampleKeys_stack (s : State) (k : Word) : (s.sampleKeys k).stack = s.stack := rfl
@[simp] theorem State.sampleKeys_sp (s : State) (k : Word) : (s.sampleKeys k).sp = s.sp := rfl
@[simp] theorem State.sampleKeys_fb (s : State) (k : Word) : (s.sampleKeys k).fb = s.fb := rfl
@[simp] theorem State.sampleKeys_DT (s : State) (k : Word) : (s.sampleKeys k).DT = s.DT := rfl
@[simp] theorem State.sampleKeys_ST (s : State) (k : Word) : (s.sampleKeys k).ST = s.ST := rfl
@[simp] theorem State.sampleKeys_run (s : State) (k : Word) : (s.sampleKeys k).run = s.run := rfl
@[simp] theorem State.sampleKeys_fault (s : State) (k : Word) : (s.sampleKeys k).fault = s.fault := rfl
@[simp] theorem State.sampleKeys_kprev (s : State) (k : Word) : (s.sampleKeys k).kprev = s.kprev := rfl
@[simp] theorem State.sampleKeys_tacc (s : State) (k : Word) : (s.sampleKeys k).tacc = s.tacc := rfl
@[simp] theorem State.sampleKeys_cfg (s : State) (k : Word) : (s.sampleKeys k).cfg = s.cfg := rfl
@[simp] theorem State.sampleKeys_io (s : State) (k : Word) : (s.sampleKeys k).io = { s.io with keys := k } := rfl
@[simp] theorem State.sampleKeys_reg (s : State) (k : Word) (r : RegIdx) : (s.sampleKeys k).reg r = s.reg r := rfl
@[simp] theorem State.sampleKeys_byteAt (s : State) (k : Word) (i : Nat) : (s.sampleKeys k).byteAt i = s.byteAt i := rfl

/-! ## tick -/

@[simp] theorem tick_mem (s : State) : (tick s).mem = s.mem := rfl
@[simp] theorem tick_V (s : State) : (tick s).V = s.V := rfl
@[simp] theorem tick_I (s : State) : (tick s).I = s.I := rfl
@[simp] theorem tick_pc (s : State) : (tick s).pc = s.pc := rfl
@[simp] theorem tick_stack (s : State) : (tick s).stack = s.stack := rfl
@[simp] theorem tick_sp (s : State) : (tick s).sp = s.sp := rfl
@[simp] theorem tick_fb (s : State) : (tick s).fb = s.fb := rfl
@[simp] theorem tick_DT (s : State) : (tick s).DT = countDown s.DT := rfl
@[simp] theorem tick_ST (s : State) : (tick s).ST = countDown s.ST := rfl
@[simp] theorem tick_run (s : State) : (tick s).run = s.run := rfl
@[simp] theorem tick_fault (s : State) : (tick s).fault = s.fault := rfl
@[simp] theorem tick_kprev (s : State) : (tick s).kprev = s.kprev := rfl
@[simp] theorem tick_tacc (s : State) : (tick s).tacc = s.tacc := rfl
@[simp] theorem tick_cfg (s : State) : (tick s).cfg = s.cfg := rfl
@[simp] theorem tick_io (s : State) : (tick s).io = s.io := rfl
@[simp] theorem tick_reg (s : State) (r : RegIdx) : (tick s).reg r = s.reg r := rfl
@[simp] theorem tick_byteAt (s : State) (i : Nat) : (tick s).byteAt i = s.byteAt i := rfl

/-! ## Reading a register after a register write -/

theorem State.reg_setReg (s : State) (x r : RegIdx) (v : Byte) :
    (s.setReg x v).reg r = if r = x then v else s.reg r := by
  have h : (x.toNat = r.toNat) = (r = x) :=
    propext ⟨fun e => (BitVec.eq_of_toNat_eq e).symm, fun e => by rw [e]⟩
  simp only [State.reg, State.setReg, Vector.getElem_set, h]

@[simp] theorem State.reg_setReg_same (s : State) (x : RegIdx) (v : Byte) : (s.setReg x v).reg x = v := by
  simp [State.reg_setReg]

@[simp] theorem State.reg_setReg_other (s : State) (x r : RegIdx) (v : Byte) (h : r ≠ x) :
    (s.setReg x v).reg r = s.reg r := by
  simp [State.reg_setReg, h]

/-- R143: after a flag-setting instruction VF holds the flag, and the result stands in any other destination. -/
theorem State.reg_setRegFlag (s : State) (x r : RegIdx) (v : Byte) (f : Bool) :
    (s.setRegFlag x v f).reg r = if r = flagReg then flagByte f else if r = x then v else s.reg r := by
  simp only [State.setRegFlag, State.reg_setReg]

theorem State.reg_loadRegs (s : State) (bs : List Byte) (r : RegIdx) :
    (s.loadRegs bs).reg r = (bs[r.toNat]?).getD (s.reg r) := by
  simp [State.reg, State.loadRegs]

/-- R118: a skip changes the program counter only. -/
theorem State.skipIf_eq (s : State) (c : Bool) : s.skipIf c = s.setPc (if c then s.pc + 4 else s.pc + 2) := by
  cases c
  · rfl
  · simp only [State.skipIf, State.advance, State.setPc, if_true, BitVec.add_assoc]
    rfl

end Sys2Proof.Machine
end

