-- ==== Sys2Proof/Laws/Memory.lean ====
section
/-! SUPPORT. The laws of memory: a read after a write, and that every operation keeps the canonical form
(`Memory.wf`); then the one thing each memory operation of a state can do. -/

namespace Sys2Proof.Machine

/-! ## Cells -/

theorem Memory.find_erase_same (m : Memory) (a : Nat) : Memory.find (m.erase a) a = none := by
  induction m with
  | nil => rfl
  | cons c m ih =>
    obtain ⟨k, b⟩ := c
    by_cases h : k = a
    · simpa [Memory.erase, h] using ih
    · simp only [Memory.erase] at ih
      simp [Memory.erase, Memory.find, h, ih]

theorem Memory.find_erase_other (m : Memory) {a i : Nat} (hi : i ≠ a) :
    Memory.find (m.erase a) i = Memory.find m i := by
  induction m with
  | nil => rfl
  | cons c m ih =>
    obtain ⟨k, b⟩ := c
    simp only [Memory.erase] at ih
    by_cases h : k = a
    · subst h
      simp [Memory.erase, Memory.find, Ne.symm hi, ih]
    · simp [Memory.erase, Memory.find, h, ih]

theorem Memory.find_insert_other (m : Memory) {a i : Nat} (v : Byte) (hi : i ≠ a) :
    Memory.find (m.insert a v) i = Memory.find m i := by
  induction m with
  | nil => simp [Memory.insert, Memory.find, Ne.symm hi]
  | cons c m ih =>
    obtain ⟨k, b⟩ := c
    unfold Memory.insert
    split
    · simp [Memory.find, Ne.symm hi]
    · simp [Memory.find, ih]

theorem Memory.find_insert_same (m : Memory) (a : Nat) (v : Byte) (h : Memory.find m a = none) :
    Memory.find (m.insert a v) a = some v := by
  induction m with
  | nil => simp [Memory.insert, Memory.find]
  | cons c m ih =>
    obtain ⟨k, b⟩ := c
    by_cases hk : k = a
    · simp [Memory.find, hk] at h
    · simp only [Memory.find, hk, if_false] at h
      unfold Memory.insert
      split
      · simp [Memory.find]
      · simp [Memory.find, hk, ih h]

/-- A read after a write to the same address gives the byte written (R58, R59). -/
theorem Memory.read_write_same (fb : Nat) (m : Memory) (a : Nat) (v : Byte) :
    Memory.read fb (Memory.write fb m a v) a = v := by
  unfold Memory.read Memory.write
  split
  · next h => simp [Memory.find_erase_same, h]
  · simp [Memory.find_insert_same _ _ _ (Memory.find_erase_same m a)]

/-- A write leaves every other address alone. -/
theorem Memory.read_write_other (fb : Nat) (m : Memory) {a i : Nat} (v : Byte) (hi : i ≠ a) :
    Memory.read fb (Memory.write fb m a v) i = Memory.read fb m i := by
  unfold Memory.read Memory.write
  split
  · simp [Memory.find_erase_other m hi]
  · simp [Memory.find_insert_other _ v hi, Memory.find_erase_other m hi]

theorem Memory.mem_insert {m : Memory} {a : Nat} {v : Byte} {c : Host.Cell} :
    c ∈ m.insert a v ↔ c = (a, v) ∨ c ∈ m := by
  induction m with
  | nil => simp [Memory.insert]
  | cons d m ih =>
    obtain ⟨k, b⟩ := d
    unfold Memory.insert
    split
    · simp
    · simp only [List.mem_cons, ih]
      tauto

theorem Memory.insert_pairwise {m : Memory} {a : Nat} (v : Byte)
    (hs : m.Pairwise fun c d => c.1 < d.1) (ha : ∀ c ∈ m, c.1 ≠ a) :
    (m.insert a v).Pairwise fun c d => c.1 < d.1 := by
  induction m with
  | nil => simp [Memory.insert]
  | cons d m ih =>
    obtain ⟨k, b⟩ := d
    rw [List.pairwise_cons] at hs
    have hk : k ≠ a := ha (k, b) (by simp)
    unfold Memory.insert
    split
    · next hlt =>
      refine List.pairwise_cons.2 ⟨fun c hc => ?_, List.pairwise_cons.2 hs⟩
      rcases List.mem_cons.1 hc with rfl | hc
      · exact hlt
      · exact lt_trans hlt (hs.1 c hc)
    · next hge =>
      refine List.pairwise_cons.2 ⟨fun c hc => ?_, ih hs.2 fun c hc => ha c (by simp [hc])⟩
      rcases Memory.mem_insert.1 hc with rfl | hc
      · show k < a
        omega
      · exact hs.1 c hc

/-- Writing inside the space keeps the canonical form. -/
theorem Memory.write_wf {fb : Nat} {m : Memory} {a : Nat} (v : Byte) (h : Memory.wf fb m)
    (ha : a < memSize) : Memory.wf fb (Memory.write fb m a v) := by
  have he : Memory.wf fb (m.erase a) :=
    ⟨h.1.filter _, fun c hc => h.2 c (List.mem_filter.1 hc).1⟩
  have hne : ∀ c ∈ m.erase a, c.1 ≠ a := fun c hc => by simpa using (List.mem_filter.1 hc).2
  unfold Memory.write
  split
  · exact he
  · next hv =>
    refine ⟨Memory.insert_pairwise v he.1 hne, fun c hc => ?_⟩
    rcases Memory.mem_insert.1 hc with rfl | hc
    · exact ⟨ha, hv⟩
    · exact he.2 c hc

/-! ## One byte of a state -/

/-- R10: `MemRead(a, 1)` answers the byte inside the space and raises outside it. -/
theorem State.readByte_eq (s : State) (a : Nat) :
    s.readByte a = if a < memSize then some (s.byteAt a) else none := by
  unfold State.readByte
  split <;> split <;> first | rfl | omega

/-- What `MemWrite(a, 1, v)` can do: inside the space, `mem[a]` becomes `v` and nothing else changes. -/
theorem State.writeByte_spec {s t : State} {a : Nat} {v : Byte} (h : s.writeByte a v = some t) :
    a < memSize ∧ t = { s with mem := Memory.write s.cfg.fontBase s.mem a v } := by
  unfold State.writeByte at h
  split at h
  · exact absurd h (by simp)
  · exact ⟨by omega, by simpa using h.symm⟩

theorem State.writeByte_none (s : State) (a : Nat) (v : Byte) : s.writeByte a v = none ↔ memSize ≤ a := by
  unfold State.writeByte
  simp only [memSize_eq]
  split <;> simp <;> omega

theorem State.byteAt_write (s : State) (a i : Nat) (v : Byte) :
    State.byteAt { s with mem := Memory.write s.cfg.fontBase s.mem a v } i =
      if i = a then v else s.byteAt i := by
  by_cases h : i = a
  · subst h
    simp [State.byteAt, Memory.read_write_same]
  · simp [State.byteAt, h, Memory.read_write_other]

/-! ## Runs of bytes -/

/-- R53, D29: what a run of reads can do. No read is made when `n = 0`. -/
theorem State.readBytes_eq (s : State) (a n : Nat) :
    s.readBytes a n =
      if n = 0 ∨ a + n ≤ memSize then some ((List.range n).map fun k => s.byteAt (a + k)) else none := by
  induction n generalizing a with
  | zero => simp [State.readBytes]
  | succ n ih =>
    rw [State.readBytes, State.readByte_eq]
    by_cases ha : a < memSize
    · rw [if_pos ha, ih]
      have hiff : (n = 0 ∨ a + 1 + n ≤ memSize) ↔ (n + 1 = 0 ∨ a + (n + 1) ≤ memSize) := by omega
      by_cases hb : n = 0 ∨ a + 1 + n ≤ memSize
      · rw [if_pos hb, if_pos (hiff.1 hb), List.range_succ_eq_map]
        simp [Function.comp_def, Nat.add_assoc, Nat.add_comm 1]
      · rw [if_neg hb, if_neg (fun h => hb (hiff.2 h))]
        rfl
    · rw [if_neg ha, if_neg (by omega)]

/-- The memory after a run of writes, where all are inside the space. -/
def Memory.writeAll (fontBase : Nat) : Memory → Nat → List Byte → Memory
  | m, _, [] => m
  | m, a, b :: bs => Memory.writeAll fontBase (Memory.write fontBase m a b) (a + 1) bs

/-- R53, R91: what a run of writes can do: all of them inside the space, or none at all. -/
theorem State.writeBytes_eq (s : State) (a : Nat) (bs : List Byte) :
    s.writeBytes a bs =
      if bs = [] ∨ a + bs.length ≤ memSize then
        some { s with mem := Memory.writeAll s.cfg.fontBase s.mem a bs }
      else none := by
  induction bs generalizing s a with
  | nil => simp [State.writeBytes, Memory.writeAll]
  | cons b bs ih =>
    rw [State.writeBytes]
    by_cases ha : a < memSize
    · have hw : s.writeByte a b = some { s with mem := Memory.write s.cfg.fontBase s.mem a b } := by
        unfold State.writeByte
        rw [if_neg (by omega)]
      rw [hw]
      have hiff : (bs = [] ∨ a + 1 + bs.length ≤ memSize) ↔
          ((b :: bs) = [] ∨ a + (b :: bs).length ≤ memSize) := by
        cases bs <;> simp <;> omega
      simp only [ih]
      by_cases hb : bs = [] ∨ a + 1 + bs.length ≤ memSize
      · rw [if_pos hb, if_pos (hiff.1 hb)]
        rfl
      · rw [if_neg hb, if_neg (fun h => hb (hiff.2 h))]
    · rw [(State.writeByte_none s a b).2 (by omega), if_neg]
      simp
      omega

/-- The bytes written stand in order from `a` on; every other address is as before. -/
theorem Memory.read_writeAll (fb : Nat) (bs : List Byte) (m : Memory) (a i : Nat) :
    Memory.read fb (Memory.writeAll fb m a bs) i =
      if a ≤ i then (bs[i - a]?).getD (Memory.read fb m i) else Memory.read fb m i := by
  induction bs generalizing m a with
  | nil => simp [Memory.writeAll]
  | cons b bs ih =>
    rw [Memory.writeAll, ih]
    by_cases h1 : a + 1 ≤ i
    · rw [if_pos h1, if_pos (by omega), Memory.read_write_other fb m b (by omega)]
      have : i - a = (i - (a + 1)) + 1 := by omega
      rw [this, List.getElem?_cons_succ]
    · rw [if_neg h1]
      by_cases h2 : i = a
      · subst h2
        simp [Memory.read_write_same]
      · rw [if_neg (by omega), Memory.read_write_other fb m b h2]

theorem Memory.writeAll_wf {fb : Nat} (bs : List Byte) {m : Memory} {a : Nat} (h : Memory.wf fb m)
    (ha : a + bs.length ≤ memSize) : Memory.wf fb (Memory.writeAll fb m a bs) := by
  induction bs generalizing m a with
  | nil => exact h
  | cons b bs ih =>
    simp only [List.length_cons] at ha
    exact ih (Memory.write_wf b h (by omega)) (by omega)

/-- What a reader sees after a run of writes. -/
theorem State.byteAt_writeAll (s : State) (a i : Nat) (bs : List Byte) :
    State.byteAt { s with mem := Memory.writeAll s.cfg.fontBase s.mem a bs } i =
      if a ≤ i then (bs[i - a]?).getD (s.byteAt i) else s.byteAt i :=
  Memory.read_writeAll _ _ _ _ _

/-- R233: loading an image is a run of writes. -/
theorem loadImage_eq (a : Nat) (bs : List Byte) (s : State) :
    loadImage a bs s = { s with mem := Memory.writeAll s.cfg.fontBase s.mem a bs } := by
  induction bs generalizing s a with
  | nil => rfl
  | cons b bs ih => rw [loadImage, ih]; rfl

/-- R31: 16 glyphs of five bytes. -/
theorem length_fontBytes : fontBytes.length = 80 := by decide

/-- R230: inside the font region a reset byte is the font's. -/
theorem Memory.resetByte_font (fontBase : Nat) {k : Nat} (hk : k < 80) :
    some (Memory.resetByte fontBase (fontBase + k)) = fontBytes[k]? := by
  rw [Memory.resetByte, if_pos (Nat.le_add_right _ _), Nat.add_sub_cancel_left,
    List.getElem?_eq_getElem (by rw [length_fontBytes]; exact hk), Option.getD_some]

/-- R230: outside the font region a reset byte is 0. -/
theorem Memory.resetByte_outside {fontBase a : Nat} (h : a < fontBase ∨ fontBase + 80 ≤ a) :
    Memory.resetByte fontBase a = 0 := by
  unfold Memory.resetByte
  split
  · rw [List.getElem?_eq_none (by rw [length_fontBytes]; omega), Option.getD_none]
  · rfl

/-- The reset memory has the canonical form. -/
theorem State.reset_memWf : Memory.wf State.reset.cfg.fontBase State.reset.mem := by
  decide

end Sys2Proof.Machine
end

