-- ==== Sys2Proof/Laws/Agents.lean ====
section
/-! SUPPORT. What the key poll's search, the timer engine and the cycle can do (R90, R184, R187, R188), each said once. -/

namespace Sys2Proof.Machine

/-! ## The lowest key (R184) -/

theorem lowestKey_eq_some (p : Word) (k : Nat) :
    lowestKey p = some k ↔ k < 16 ∧ p.getLsbD k = true ∧ ∀ j < k, p.getLsbD j = false := by
  unfold lowestKey
  rw [List.find?_range_eq_some]
  simp only [List.mem_range, Bool.not_eq_true']
  tauto

theorem lowestKey_eq_none (p : Word) : lowestKey p = none ↔ ∀ k < 16, p.getLsbD k = false := by
  simp [lowestKey, List.find?_eq_none]

theorem State.newKeys_getLsbD (s : State) (k : Nat) (hk : k < 16) :
    s.newKeys.getLsbD k = (s.io.keys.getLsbD k && !s.kprev.getLsbD k) := by
  simp [State.newKeys, hk]

/-! ## The timers (R187) -/

theorem toNat_countDown (t : Byte) : (countDown t).toNat = t.toNat - 1 := by
  unfold countDown
  have := t.isLt
  split
  · rw [BitVec.toNat_sub]
    simp
    omega
  · omega

/-- `n` ticks change the two timers only. -/
theorem ticks_eq (n : Nat) (s : State) :
    ticks n s = { s with DT := countDown^[n] s.DT, ST := countDown^[n] s.ST } := by
  induction n generalizing s with
  | zero => rfl
  | succ n ih => rw [ticks, ih]; rfl

theorem toNat_countDown_iterate (n : Nat) (t : Byte) : (countDown^[n] t).toNat = t.toNat - n := by
  induction n generalizing t with
  | zero => rfl
  | succ n ih =>
    rw [Function.iterate_succ_apply, ih, toNat_countDown]
    omega

/-! ## The cycle (R90) and the choice of the agent (R11): what each can answer -/

theorem interpStep_of_running {s : State} (h : s.run = .running) : interpStep s = cycle s := by
  simp only [interpStep, h]

theorem interpStep_of_awaiting {s : State} {x : RegIdx} (h : s.run = .awaitingKey x) :
    interpStep s = .next (keyPoll x s) := by
  simp only [interpStep, h]

theorem interpStep_of_stopped {s : State} (h : s.run = .stopped) : interpStep s = .next s := by
  simp only [interpStep, h]

theorem interpStep_of_halted {s : State} (h : s.run = .halted) : interpStep s = .next s := by
  simp only [interpStep, h]

/-- R52, R90, R205: the three ways of a cycle. -/
theorem cycle_cases (s : State) :
    (s.fetchWord = none ∧ cycle s = .next (s.raise .memOutOfBounds none)) ∨
    (∃ w, s.fetchWord = some w ∧ decode w = none ∧ cycle s = .next (unknownOpcode w s)) ∨
    ∃ w i, s.fetchWord = some w ∧ decode w = some i ∧ cycle s = exec i s := by
  unfold cycle
  cases hf : s.fetchWord with
  | none => exact .inl ⟨rfl, rfl⟩
  | some w =>
    cases hd : decode w with
    | none => exact .inr (.inl ⟨w, rfl, hd, by simp [hd]⟩)
    | some i => exact .inr (.inr ⟨w, i, rfl, hd, by simp [hd]⟩)

/-- R52, R92: the fetch succeeds exactly where both bytes are inside memory. -/
theorem State.fetchWord_eq_some {s : State} {w : Word} (h : s.fetchWord = some w) :
    s.pc.toNat + 2 ≤ memSize ∧ w = wordOfBytes (s.byteAt s.pc.toNat) (s.byteAt (s.pc.toNat + 1)) := by
  unfold State.fetchWord at h
  split at h
  · exact absurd h (by simp)
  · exact ⟨by omega, by simpa using h.symm⟩

/-- R95: the two ways of an unknown opcode. -/
theorem unknownOpcode_cases (w : Word) (s : State) :
    (s.cfg.unknownPolicy = .halt ∧ unknownOpcode w s = s.raise .unknownOpcode (some w)) ∨
    (s.cfg.unknownPolicy = .skip ∧ unknownOpcode w s = (s.report w).advance) := by
  unfold unknownOpcode
  cases h : s.cfg.unknownPolicy with
  | halt => exact .inl ⟨rfl, rfl⟩
  | skip => exact .inr ⟨rfl, rfl⟩

/-- R233: the two ways of `Start`. -/
theorem hostStart_cases (image : List Byte) (s : State) :
    (maxImage < image.length ∧ hostStart image s = s) ∨
    (image.length ≤ maxImage ∧ hostStart image s =
      { State.initial s.cfg s.io with
          mem := Memory.writeAll s.cfg.fontBase [] loadBase image, run := .running }) := by
  unfold hostStart
  split
  · next h => exact .inl ⟨h, rfl⟩
  · next h => exact .inr ⟨Nat.not_lt.1 h, by rw [loadImage_eq]; rfl⟩

/-- R11: the step of each agent. -/
theorem step_of_event {s : State} {e : Event} (h : s.nextEvent = e) : step s = agentStep e s.popEvent := by
  rw [step, h]

/-- A run of `n + 1` steps goes on from where the first step leads. -/
theorem run_of_step {s t : State} (n : Nat) (h : step s = .next t) :
    Host.Core.run core (n + 1) s = Host.Core.run core n t := by
  have hc : core.step s = .next t := h
  simp only [Host.Core.run, hc]

end Sys2Proof.Machine
end

