-- ==== Sys2Proof/Laws/Display.lean ====
section
/-! SUPPORT. What the pixel operations do, pixel by pixel (10_state.md R29, 44_display.md R170, R171). -/

namespace Sys2Proof.Machine

theorem Framebuffer.pixel_out_of_rows (f : Framebuffer) (x : Nat) {y : Nat} (h : 32 ≤ y) : f.pixel x y = false := by
  simp [Framebuffer.pixel, Nat.not_lt.2 h]

theorem Framebuffer.pixel_out_of_columns (f : Framebuffer) {x : Nat} (y : Nat) (h : 64 ≤ x) :
    f.pixel x y = false := by
  unfold Framebuffer.pixel
  split
  · simp [BitVec.getMsbD, Nat.not_lt.2 h]
  · rfl

/-- A flip changes the one pixel it names and no other. -/
theorem Framebuffer.pixel_flip (f : Framebuffer) {x y : Nat} (hx : x < 64) (hy : y < 32) (px py : Nat) :
    (f.flip x y).pixel px py = if px = x ∧ py = y then !f.pixel x y else f.pixel px py := by
  by_cases hpy : py < 32
  · by_cases hpx : px < 64
    · by_cases hrow : py = y
      · subst hrow
        simp only [Framebuffer.pixel, Framebuffer.flip, dif_pos hpy, Vector.getElem_set_self, BitVec.getMsbD,
          BitVec.getLsbD_xor, BitVec.getLsbD_twoPow, decide_eq_true hpx, decide_eq_true hx, Bool.true_and, and_true]
        by_cases hcol : px = x
        · subst hcol
          have h1 : 63 - px < 64 := by omega
          have h2 : 63 - px = 64 - 1 - px := by omega
          simp [h1, h2]
        · have h3 : ¬ (63 - x = 64 - 1 - px) := by omega
          simp [hcol, h3]
      · simp [Framebuffer.pixel, Framebuffer.flip, hy, hpy, hrow, Vector.getElem_set_ne _ _ (Ne.symm hrow)]
    · have hcol : px ≠ x := by omega
      simp [hcol, Framebuffer.pixel_out_of_columns _ _ (Nat.not_lt.1 hpx)]
  · have hrow : py ≠ y := by omega
    simp [hrow, Framebuffer.pixel_out_of_rows _ _ (Nat.not_lt.1 hpy)]

/-- R170: no pixel of a cleared framebuffer is on. -/
theorem Framebuffer.pixel_clear (x y : Nat) : Framebuffer.clear.pixel x y = false := by
  unfold Framebuffer.pixel Framebuffer.clear
  split
  · simp [BitVec.getMsbD]
  · rfl

/-- Two framebuffers with the same pixels are the same framebuffer. -/
theorem Framebuffer.ext_pixel {f g : Framebuffer} (h : ∀ x y, x < 64 → y < 32 → f.pixel x y = g.pixel x y) :
    f = g := by
  apply Vector.ext
  intro y hy
  apply BitVec.eq_of_getMsbD_eq
  intro x hx
  simpa [Framebuffer.pixel, hy] using h x y hx hy

/-- R171: the sprite's 1 bits: (c, r) is a dot when bit 7 - c of the byte of row r is 1. -/
theorem mem_spriteDots (bs : List Byte) (r0 c r : Nat) :
    (c, r) ∈ spriteDots r0 bs ↔
      r0 ≤ r ∧ c < 8 ∧ ∃ b, bs[r - r0]? = some b ∧ b.getLsbD (7 - c) = true := by
  induction bs generalizing r0 with
  | nil => simp [spriteDots]
  | cons b bs ih =>
    have hc : (c, r) ∈ (spriteColumns b).map (fun c => (c, r0)) ↔ r = r0 ∧ c < 8 ∧ b.getLsbD (7 - c) = true := by
      simp only [List.mem_map, spriteColumns, List.mem_filter, List.mem_range, Prod.mk.injEq]
      constructor
      · rintro ⟨c', ⟨h1, h2⟩, rfl, rfl⟩
        exact ⟨rfl, h1, h2⟩
      · rintro ⟨rfl, h1, h2⟩
        exact ⟨c, ⟨h1, h2⟩, rfl, rfl⟩
    rw [spriteDots, List.mem_append, hc, ih]
    constructor
    · rintro (⟨rfl, h1, h2⟩ | ⟨h0, h1, b', h2, h3⟩)
      · exact ⟨le_rfl, h1, b, by simp, h2⟩
      · refine ⟨by omega, h1, b', ?_, h3⟩
        rw [show r - r0 = (r - (r0 + 1)) + 1 by omega]
        simpa using h2
    · rintro ⟨h0, h1, b', h2, h3⟩
      by_cases hr : r = r0
      · subst hr
        left
        simp only [Nat.sub_self, List.getElem?_cons_zero, Option.some.injEq] at h2
        exact ⟨rfl, h1, h2 ▸ h3⟩
      · right
        rw [show r - r0 = (r - (r0 + 1)) + 1 by omega, List.getElem?_cons_succ] at h2
        exact ⟨by omega, h1, b', h2, h3⟩

/-- R171: plotting distinct pixels flips exactly those, and finds a collision exactly when one of them was on. -/
theorem foldl_plot (l : List (Nat × Nat)) (f : Framebuffer) (b : Bool)
    (hr : ∀ d ∈ l, d.1 < 64 ∧ d.2 < 32) (hn : l.Nodup) :
    (∀ px py, (l.foldl (fun a d => plot a d.1 d.2) (f, b)).1.pixel px py =
      (f.pixel px py != decide ((px, py) ∈ l))) ∧
    (l.foldl (fun a d => plot a d.1 d.2) (f, b)).2 = (b || l.any fun d => f.pixel d.1 d.2) := by
  induction l generalizing f b with
  | nil => simp
  | cons d l ih =>
    obtain ⟨x, y⟩ := d
    obtain ⟨hx, hy⟩ := hr (x, y) (by simp)
    obtain ⟨hd, hn⟩ := List.nodup_cons.1 hn
    obtain ⟨h1, h2⟩ := ih (f.flip x y) (b || f.pixel x y) (fun e he => hr e (by simp [he])) hn
    refine ⟨fun px py => ?_, ?_⟩
    · rw [List.foldl_cons, plot, h1, Framebuffer.pixel_flip f hx hy]
      by_cases h : px = x ∧ py = y
      · obtain ⟨rfl, rfl⟩ := h
        simp [hd]
      · have : (px, py) ≠ (x, y) := fun he => h (by simpa using he)
        simp [h, this]
    · rw [List.foldl_cons, plot, h2, List.any_cons, Bool.or_assoc]
      congr 2
      rw [Bool.eq_iff_iff, List.any_eq_true, List.any_eq_true]
      refine exists_congr fun e => and_congr_right fun he => ?_
      have hne : ¬ (e.1 = x ∧ e.2 = y) := fun hc => hd (by rwa [← hc.1, ← hc.2])
      rw [Framebuffer.pixel_flip f hx hy, if_neg hne]

theorem spriteDots_nodup (bs : List Byte) (r : Nat) : (spriteDots r bs).Nodup := by
  induction bs generalizing r with
  | nil => simp [spriteDots]
  | cons b bs ih =>
    refine List.nodup_append.2 ⟨?_, ih _, ?_⟩
    · exact List.Nodup.map (fun c d h => by simpa using h) ((List.nodup_range).filter _)
    · rintro ⟨c, q⟩ h ⟨c', q'⟩ h' heq
      obtain ⟨d, -, hd⟩ := List.mem_map.1 h
      have := (mem_spriteDots bs (r + 1) c' q').1 h'
      simp only [Prod.mk.injEq] at hd heq
      omega

/-- R171: what the draw does, pixel by pixel, for a sprite of at most 32 rows. -/
theorem drawSprite_spec (x0 y0 : Nat) (bs : List Byte) (f : Framebuffer) (hl : bs.length ≤ 32) :
    (∀ px py, (drawSprite x0 y0 bs f).1.pixel px py = (f.pixel px py !=
      decide (∃ d ∈ spriteDots 0 bs, ((x0 + d.1) % 64, (y0 + d.2) % 32) = (px, py)))) ∧
    (drawSprite x0 y0 bs f).2 =
      (spriteDots 0 bs).any fun d => f.pixel ((x0 + d.1) % 64) ((y0 + d.2) % 32) := by
  have hn : ((spriteDots 0 bs).map fun d => ((x0 + d.1) % 64, (y0 + d.2) % 32)).Nodup := by
    refine List.Nodup.map_on ?_ (spriteDots_nodup bs 0)
    rintro ⟨c, r⟩ h ⟨c', r'⟩ h' he
    obtain ⟨-, hc, b, hb, -⟩ := (mem_spriteDots bs 0 c r).1 h
    obtain ⟨-, hc', b', hb', -⟩ := (mem_spriteDots bs 0 c' r').1 h'
    have := (List.getElem?_eq_some_iff.1 hb).1
    have := (List.getElem?_eq_some_iff.1 hb').1
    simp only [Prod.mk.injEq] at he ⊢
    omega
  obtain ⟨h1, h2⟩ := foldl_plot _ f false (fun d hd => by
    obtain ⟨e, -, rfl⟩ := List.mem_map.1 hd
    exact ⟨Nat.mod_lt _ (by decide), Nat.mod_lt _ (by decide)⟩) hn
  rw [List.foldl_map] at h1 h2
  refine ⟨fun px py => ?_, ?_⟩
  · rw [drawSprite, h1]
    simp only [List.mem_map]
  · rw [drawSprite, h2, List.any_map]
    rfl

end Sys2Proof.Machine
end

