-- ==== Sys2Proof/Laws/Encode.lean ====
section
/-! SUPPORT. The fields of an encoded word (30_encoding.md R72, R73): each extraction gives back the field put there,
every word is the word of its fields, and each mask of R75 keeps the fixed nibbles. -/

namespace Sys2Proof

/-! ## Fields as numbers (R72) -/

theorem toNat_opOf (w : Word) : (opOf w).toNat = w.toNat / 4096 := by
  have := w.isLt
  simp only [opOf, BitVec.extractLsb'_toNat, Nat.shiftRight_eq_div_pow]
  omega

theorem toNat_xOf (w : Word) : (xOf w).toNat = w.toNat / 256 % 16 := by
  simp only [xOf, BitVec.extractLsb'_toNat, Nat.shiftRight_eq_div_pow]

theorem toNat_yOf (w : Word) : (yOf w).toNat = w.toNat / 16 % 16 := by
  simp only [yOf, BitVec.extractLsb'_toNat, Nat.shiftRight_eq_div_pow]

theorem toNat_nOf (w : Word) : (nOf w).toNat = w.toNat % 16 := by
  simp only [nOf, BitVec.extractLsb'_toNat, Nat.shiftRight_eq_div_pow]
  omega

theorem toNat_nnOf (w : Word) : (nnOf w).toNat = w.toNat % 256 := by
  simp only [nnOf, BitVec.extractLsb'_toNat, Nat.shiftRight_eq_div_pow]
  omega

theorem toNat_nnnOf (w : Word) : (nnnOf w).toNat = w.toNat % 4096 := by
  simp only [nnnOf, BitVec.extractLsb'_toNat, Nat.shiftRight_eq_div_pow]
  omega

/-! ## Encoded words as numbers (R82) -/

theorem toNat_wordRR (op : Nibble) (x y : RegIdx) (n : Nibble) :
    (wordRR op x y n).toNat = op.toNat * 4096 + x.toNat * 256 + y.toNat * 16 + n.toNat := by
  simp only [wordRR, BitVec.toNat_ofNat]
  omega

theorem toNat_wordRI (op : Nibble) (x : RegIdx) (nn : Byte) :
    (wordRI op x nn).toNat = op.toNat * 4096 + x.toNat * 256 + nn.toNat := by
  simp only [wordRI, BitVec.toNat_ofNat]
  omega

theorem toNat_wordA (op : Nibble) (nnn : Addr12) : (wordA op nnn).toNat = op.toNat * 4096 + nnn.toNat := by
  simp only [wordA, BitVec.toNat_ofNat]
  omega

/-! ## The fields of an encoded word -/

@[simp] theorem opOf_wordRR (op : Nibble) (x y : RegIdx) (n : Nibble) : opOf (wordRR op x y n) = op := by
  apply BitVec.eq_of_toNat_eq
  rw [toNat_opOf, toNat_wordRR]
  omega

@[simp] theorem xOf_wordRR (op : Nibble) (x y : RegIdx) (n : Nibble) : xOf (wordRR op x y n) = x := by
  apply BitVec.eq_of_toNat_eq
  rw [toNat_xOf, toNat_wordRR]
  omega

@[simp] theorem yOf_wordRR (op : Nibble) (x y : RegIdx) (n : Nibble) : yOf (wordRR op x y n) = y := by
  apply BitVec.eq_of_toNat_eq
  rw [toNat_yOf, toNat_wordRR]
  omega

@[simp] theorem nOf_wordRR (op : Nibble) (x y : RegIdx) (n : Nibble) : nOf (wordRR op x y n) = n := by
  apply BitVec.eq_of_toNat_eq
  rw [toNat_nOf, toNat_wordRR]
  omega

@[simp] theorem opOf_wordRI (op : Nibble) (x : RegIdx) (nn : Byte) : opOf (wordRI op x nn) = op := by
  apply BitVec.eq_of_toNat_eq
  rw [toNat_opOf, toNat_wordRI]
  omega

@[simp] theorem xOf_wordRI (op : Nibble) (x : RegIdx) (nn : Byte) : xOf (wordRI op x nn) = x := by
  apply BitVec.eq_of_toNat_eq
  rw [toNat_xOf, toNat_wordRI]
  omega

@[simp] theorem nnOf_wordRI (op : Nibble) (x : RegIdx) (nn : Byte) : nnOf (wordRI op x nn) = nn := by
  apply BitVec.eq_of_toNat_eq
  rw [toNat_nnOf, toNat_wordRI]
  omega

@[simp] theorem opOf_wordA (op : Nibble) (nnn : Addr12) : opOf (wordA op nnn) = op := by
  apply BitVec.eq_of_toNat_eq
  rw [toNat_opOf, toNat_wordA]
  omega

@[simp] theorem nnnOf_wordA (op : Nibble) (nnn : Addr12) : nnnOf (wordA op nnn) = nnn := by
  apply BitVec.eq_of_toNat_eq
  rw [toNat_nnnOf, toNat_wordA]
  omega

/-! ## Every word is the word of its fields -/

theorem wordRR_fields (w : Word) : wordRR (opOf w) (xOf w) (yOf w) (nOf w) = w := by
  apply BitVec.eq_of_toNat_eq
  rw [toNat_wordRR, toNat_opOf, toNat_xOf, toNat_yOf, toNat_nOf]
  omega

theorem wordRI_fields (w : Word) : wordRI (opOf w) (xOf w) (nnOf w) = w := by
  apply BitVec.eq_of_toNat_eq
  rw [toNat_wordRI, toNat_opOf, toNat_xOf, toNat_nnOf]
  omega

theorem wordA_fields (w : Word) : wordA (opOf w) (nnnOf w) = w := by
  apply BitVec.eq_of_toNat_eq
  rw [toNat_wordA, toNat_opOf, toNat_nnnOf]
  omega

/-! ## The masks of R75, field by field -/

theorem opOf_and (w m : Word) : opOf (w &&& m) = opOf w &&& opOf m := BitVec.extractLsb'_and
theorem xOf_and (w m : Word) : xOf (w &&& m) = xOf w &&& xOf m := BitVec.extractLsb'_and
theorem yOf_and (w m : Word) : yOf (w &&& m) = yOf w &&& yOf m := BitVec.extractLsb'_and
theorem nOf_and (w m : Word) : nOf (w &&& m) = nOf w &&& nOf m := BitVec.extractLsb'_and
theorem nnOf_and (w m : Word) : nnOf (w &&& m) = nnOf w &&& nnOf m := BitVec.extractLsb'_and
theorem nnnOf_and (w m : Word) : nnnOf (w &&& m) = nnnOf w &&& nnnOf m := BitVec.extractLsb'_and

theorem and_nibbleMask (b : Nibble) : b &&& 15#4 = b := BitVec.and_allOnes
theorem and_byteMask (b : Byte) : b &&& 255#8 = b := BitVec.and_allOnes

theorem wordRR_and (op : Nibble) (x y : RegIdx) (n : Nibble) (m : Word) :
    wordRR op x y n &&& m = wordRR (op &&& opOf m) (x &&& xOf m) (y &&& yOf m) (n &&& nOf m) := by
  rw [← wordRR_fields (wordRR op x y n &&& m)]
  simp only [opOf_and, xOf_and, yOf_and, nOf_and, opOf_wordRR, xOf_wordRR, yOf_wordRR, nOf_wordRR]

theorem wordRI_and (op : Nibble) (x : RegIdx) (nn : Byte) (m : Word) :
    wordRI op x nn &&& m = wordRI (op &&& opOf m) (x &&& xOf m) (nn &&& nnOf m) := by
  rw [← wordRI_fields (wordRI op x nn &&& m)]
  simp only [opOf_and, xOf_and, nnOf_and, opOf_wordRI, xOf_wordRI, nnOf_wordRI]

theorem wordA_and (op : Nibble) (nnn : Addr12) (m : Word) :
    wordA op nnn &&& m = wordA (op &&& opOf m) (nnn &&& nnnOf m) := by
  rw [← wordA_fields (wordA op nnn &&& m)]
  simp only [opOf_and, nnnOf_and, opOf_wordA, nnnOf_wordA]

theorem wordRR_mask (op : Nibble) (x y : RegIdx) (n : Nibble) :
    wordRR op x y n &&& 0xF00F#16 = wordRR op 0 0 n := by
  rw [wordRR_and, show opOf 0xF00F#16 = 15#4 from by decide, show xOf 0xF00F#16 = 0#4 from by decide,
    show yOf 0xF00F#16 = 0#4 from by decide, show nOf 0xF00F#16 = 15#4 from by decide]
  simp [and_nibbleMask]

theorem wordRR_maskOp (op : Nibble) (x y : RegIdx) (n : Nibble) :
    wordRR op x y n &&& 0xF000#16 = wordRR op 0 0 0 := by
  rw [wordRR_and, show opOf 0xF000#16 = 15#4 from by decide, show xOf 0xF000#16 = 0#4 from by decide,
    show yOf 0xF000#16 = 0#4 from by decide, show nOf 0xF000#16 = 0#4 from by decide]
  simp [and_nibbleMask]

theorem wordRI_mask (op : Nibble) (x : RegIdx) (nn : Byte) :
    wordRI op x nn &&& 0xF0FF#16 = wordRI op 0 nn := by
  rw [wordRI_and, show opOf 0xF0FF#16 = 15#4 from by decide, show xOf 0xF0FF#16 = 0#4 from by decide,
    show nnOf 0xF0FF#16 = 255#8 from by decide]
  simp [and_nibbleMask, and_byteMask]

theorem wordRI_maskOp (op : Nibble) (x : RegIdx) (nn : Byte) :
    wordRI op x nn &&& 0xF000#16 = wordRI op 0 0 := by
  rw [wordRI_and, show opOf 0xF000#16 = 15#4 from by decide, show xOf 0xF000#16 = 0#4 from by decide,
    show nnOf 0xF000#16 = 0#8 from by decide]
  simp [and_nibbleMask]

theorem wordA_mask (op : Nibble) (nnn : Addr12) : wordA op nnn &&& 0xF000#16 = wordA op 0 := by
  rw [wordA_and, show opOf 0xF000#16 = 15#4 from by decide, show nnnOf 0xF000#16 = 0#12 from by decide]
  simp [and_nibbleMask]

/-! ## The two bytes of a word in memory (R55, R70) -/

theorem wordOfBytes_high_low (w : Word) : wordOfBytes (highByte w) (lowByte w) = w := by
  have h : wordOfBytes (highByte w) (lowByte w) = (w.extractLsb' 8 8 ++ w.extractLsb' 0 8 : BitVec (8 + 8)) := rfl
  rw [h]
  apply BitVec.eq_of_toNat_eq
  have hw := w.isLt
  simp only [BitVec.toNat_append, BitVec.extractLsb'_toNat, Nat.shiftRight_eq_div_pow]
  rw [Nat.shiftLeft_eq, Nat.mul_comm, ← Nat.two_pow_add_eq_or_of_lt (Nat.mod_lt _ (by decide))]
  omega

end Sys2Proof
end

