-- ==== Sys2Proof/Laws/Exec.lean ====
section
/-! SUPPORT. What the meanings that can raise a fault (60_exceptions.md R200) can do: each of them has two answers, said
once here with the condition of each. The other meanings have one answer each, by definition. -/

namespace Sys2Proof.Machine

theorem length_bcdDigits (v : Byte) : (bcdDigits v).length = 3 := rfl

theorem State.length_regRun (s : State) (x : RegIdx) : (s.regRun x).length = x.toNat + 1 := by
  simp only [State.regRun, List.length_take, Vector.length_toList]
  have := x.isLt
  omega

/-- R154: register r of the run, for r at most X; nothing beyond. -/
theorem State.getElem?_regRun (s : State) (x r : RegIdx) :
    (s.regRun x)[r.toNat]? = if r.toNat ≤ x.toNat then some (s.reg r) else none := by
  simp only [State.regRun, List.getElem?_take, Nat.lt_succ_iff]
  split
  · simp [State.reg]
  · rfl

/-- R111: the two answers of CALL. -/
theorem execCall_cases (nnn : Addr12) (s : State) :
    (s.sp = s.cfg.stackCapacity ∧ execCall nnn s = raiseFault .stackOverflow (.call nnn) s) ∨
    (s.sp ≠ s.cfg.stackCapacity ∧
      execCall nnn s = .next { s with
        pc := zextAddr nnn
        stack := s.stack.set s.sp (s.pc + 2)
        sp := s.sp + 1 }) := by
  unfold execCall
  split
  · next h => exact .inl ⟨h, rfl⟩
  · next h => exact .inr ⟨h, rfl⟩

/-- R112: the two answers of RET. -/
theorem execRet_cases (s : State) :
    (s.sp = 0 ∧ execRet s = raiseFault .stackUnderflow .ret s) ∨
    (s.sp ≠ 0 ∧ execRet s = .next { s with pc := s.stackTop, sp := s.sp - 1 }) := by
  unfold execRet
  split
  · next h => exact .inl ⟨h, rfl⟩
  · next h => exact .inr ⟨h, rfl⟩

/-- R153: the two answers of LD_B. -/
theorem execLdB_cases (x : RegIdx) (s : State) :
    (memSize < s.indexAddr + 3 ∧ execLdB x s = raiseFault .memOutOfBounds (.ldB x) s) ∨
    (s.indexAddr + 3 ≤ memSize ∧ execLdB x s = .next { s with
      pc := s.pc + 2
      mem := Memory.writeAll s.cfg.fontBase s.mem s.indexAddr (bcdDigits (s.reg x)) }) := by
  unfold execLdB
  rw [State.writeBytes_eq, length_bcdDigits]
  by_cases h : s.indexAddr + 3 ≤ memSize
  · rw [if_pos (.inr h)]
    exact .inr ⟨h, rfl⟩
  · rw [if_neg (by simp [bcdDigits]; omega)]
    exact .inl ⟨Nat.not_le.1 h, rfl⟩

/-- R154: the two answers of LD_MEM_VX. -/
theorem execLdMemVx_cases (x : RegIdx) (s : State) :
    (memSize < s.indexAddr + (x.toNat + 1) ∧ execLdMemVx x s = raiseFault .memOutOfBounds (.ldMemVx x) s) ∨
    (s.indexAddr + (x.toNat + 1) ≤ memSize ∧ execLdMemVx x s = .next { s with
      pc := s.pc + 2
      mem := Memory.writeAll s.cfg.fontBase s.mem s.indexAddr (s.regRun x) }) := by
  unfold execLdMemVx
  rw [State.writeBytes_eq, State.length_regRun]
  by_cases h : s.indexAddr + (x.toNat + 1) ≤ memSize
  · rw [if_pos (.inr h)]
    exact .inr ⟨h, rfl⟩
  · have hne : s.regRun x ≠ [] := fun he => by simpa [he] using s.length_regRun x
    rw [if_neg (not_or.2 ⟨hne, h⟩)]
    exact .inl ⟨Nat.not_le.1 h, rfl⟩

/-- R155: the two answers of LD_VX_MEM. -/
theorem execLdVxMem_cases (x : RegIdx) (s : State) :
    (memSize < s.indexAddr + (x.toNat + 1) ∧ execLdVxMem x s = raiseFault .memOutOfBounds (.ldVxMem x) s) ∨
    (s.indexAddr + (x.toNat + 1) ≤ memSize ∧ execLdVxMem x s =
      .next (s.advance.loadRegs ((List.range (x.toNat + 1)).map fun k => s.byteAt (s.indexAddr + k)))) := by
  unfold execLdVxMem
  rw [State.readBytes_eq]
  by_cases h : s.indexAddr + (x.toNat + 1) ≤ memSize
  · rw [if_pos (.inr h)]
    exact .inr ⟨h, rfl⟩
  · rw [if_neg (by omega)]
    exact .inl ⟨Nat.not_le.1 h, rfl⟩

/-- R171: the sprite's bytes, `n` of them from I on. -/
def State.spriteBytes (s : State) (n : Nibble) : List Byte :=
  (List.range n.toNat).map fun k => s.byteAt (s.indexAddr + k)

/-- R171: the two answers of DRW. -/
theorem execDrw_cases (x y : RegIdx) (n : Nibble) (s : State) :
    (n.toNat ≠ 0 ∧ memSize < s.indexAddr + n.toNat ∧ execDrw x y n s = raiseFault .memOutOfBounds (.drw x y n) s) ∨
    ((n.toNat = 0 ∨ s.indexAddr + n.toNat ≤ memSize) ∧ execDrw x y n s =
      .next ((s.advance.setFb
          (drawSprite ((s.reg x).toNat % 64) ((s.reg y).toNat % 32) (s.spriteBytes n) s.fb).1).setReg flagReg
        (flagByte (drawSprite ((s.reg x).toNat % 64) ((s.reg y).toNat % 32) (s.spriteBytes n) s.fb).2))) := by
  unfold execDrw
  rw [State.readBytes_eq]
  by_cases h : n.toNat = 0 ∨ s.indexAddr + n.toNat ≤ memSize
  · rw [if_pos h]
    exact .inr ⟨h, rfl⟩
  · rw [if_neg h]
    exact .inl ⟨fun hz => h (.inl hz), Nat.not_le.1 fun hl => h (.inr hl), rfl⟩

end Sys2Proof.Machine
end

