-- ==== Sys2Proof/Laws/PerInstr.lean ====
section
/-! SUPPORT. Statements made per instruction. `RowMatch`: the encoded word selects the instruction's own row of the
opcode map (30_encoding.md R74, R75). -/

namespace Sys2Proof.Laws

/-- R74, R75: the word of `i` selects the row of `i`'s mnemonic. -/
def RowMatch.Statement (i : Instr) : Prop :=
  ∃ r ∈ opcodeRows, r.mnemonic = mnemonicOf i ∧ selectsRow (encode i) r = true

theorem RowMatch.cls : RowMatch.Statement .cls :=
  ⟨⟨"CLS", 0xFFFF, 0x00E0⟩, by simp [opcodeRows, opcodeRowsLow, opcodeRows8, opcodeRowsHigh, opcodeRowsF],
    rfl, by decide⟩

theorem RowMatch.ret : RowMatch.Statement .ret :=
  ⟨⟨"RET", 0xFFFF, 0x00EE⟩, by simp [opcodeRows, opcodeRowsLow, opcodeRows8, opcodeRowsHigh, opcodeRowsF],
    rfl, by decide⟩

theorem RowMatch.jp (nnn : Addr12) : RowMatch.Statement (.jp nnn) :=
  ⟨⟨"JP", 0xF000, 0x1000⟩, by simp [opcodeRows, opcodeRowsLow, opcodeRows8, opcodeRowsHigh, opcodeRowsF],
    rfl, beq_iff_eq.2 ((wordA_mask _ _).trans (by decide))⟩

theorem RowMatch.call (nnn : Addr12) : RowMatch.Statement (.call nnn) :=
  ⟨⟨"CALL", 0xF000, 0x2000⟩, by simp [opcodeRows, opcodeRowsLow, opcodeRows8, opcodeRowsHigh, opcodeRowsF],
    rfl, beq_iff_eq.2 ((wordA_mask _ _).trans (by decide))⟩

theorem RowMatch.seImm (x : RegIdx) (nn : Byte) : RowMatch.Statement (.seImm x nn) :=
  ⟨⟨"SE_IMM", 0xF000, 0x3000⟩, by simp [opcodeRows, opcodeRowsLow, opcodeRows8, opcodeRowsHigh, opcodeRowsF],
    rfl, beq_iff_eq.2 ((wordRI_maskOp _ _ _).trans (by decide))⟩

theorem RowMatch.sneImm (x : RegIdx) (nn : Byte) : RowMatch.Statement (.sneImm x nn) :=
  ⟨⟨"SNE_IMM", 0xF000, 0x4000⟩, by simp [opcodeRows, opcodeRowsLow, opcodeRows8, opcodeRowsHigh, opcodeRowsF],
    rfl, beq_iff_eq.2 ((wordRI_maskOp _ _ _).trans (by decide))⟩

theorem RowMatch.seReg (x : RegIdx) (y : RegIdx) : RowMatch.Statement (.seReg x y) :=
  ⟨⟨"SE_REG", 0xF00F, 0x5000⟩, by simp [opcodeRows, opcodeRowsLow, opcodeRows8, opcodeRowsHigh, opcodeRowsF],
    rfl, beq_iff_eq.2 ((wordRR_mask _ _ _ _).trans (by decide))⟩

theorem RowMatch.ldImm (x : RegIdx) (nn : Byte) : RowMatch.Statement (.ldImm x nn) :=
  ⟨⟨"LD_IMM", 0xF000, 0x6000⟩, by simp [opcodeRows, opcodeRowsLow, opcodeRows8, opcodeRowsHigh, opcodeRowsF],
    rfl, beq_iff_eq.2 ((wordRI_maskOp _ _ _).trans (by decide))⟩

theorem RowMatch.addImm (x : RegIdx) (nn : Byte) : RowMatch.Statement (.addImm x nn) :=
  ⟨⟨"ADD_IMM", 0xF000, 0x7000⟩, by simp [opcodeRows, opcodeRowsLow, opcodeRows8, opcodeRowsHigh, opcodeRowsF],
    rfl, beq_iff_eq.2 ((wordRI_maskOp _ _ _).trans (by decide))⟩

theorem RowMatch.ldReg (x : RegIdx) (y : RegIdx) : RowMatch.Statement (.ldReg x y) :=
  ⟨⟨"LD_REG", 0xF00F, 0x8000⟩, by simp [opcodeRows, opcodeRowsLow, opcodeRows8, opcodeRowsHigh, opcodeRowsF],
    rfl, beq_iff_eq.2 ((wordRR_mask _ _ _ _).trans (by decide))⟩

theorem RowMatch.or (x : RegIdx) (y : RegIdx) : RowMatch.Statement (.or x y) :=
  ⟨⟨"OR", 0xF00F, 0x8001⟩, by simp [opcodeRows, opcodeRowsLow, opcodeRows8, opcodeRowsHigh, opcodeRowsF],
    rfl, beq_iff_eq.2 ((wordRR_mask _ _ _ _).trans (by decide))⟩

theorem RowMatch.and (x : RegIdx) (y : RegIdx) : RowMatch.Statement (.and x y) :=
  ⟨⟨"AND", 0xF00F, 0x8002⟩, by simp [opcodeRows, opcodeRowsLow, opcodeRows8, opcodeRowsHigh, opcodeRowsF],
    rfl, beq_iff_eq.2 ((wordRR_mask _ _ _ _).trans (by decide))⟩

theorem RowMatch.xor (x : RegIdx) (y : RegIdx) : RowMatch.Statement (.xor x y) :=
  ⟨⟨"XOR", 0xF00F, 0x8003⟩, by simp [opcodeRows, opcodeRowsLow, opcodeRows8, opcodeRowsHigh, opcodeRowsF],
    rfl, beq_iff_eq.2 ((wordRR_mask _ _ _ _).trans (by decide))⟩

theorem RowMatch.addReg (x : RegIdx) (y : RegIdx) : RowMatch.Statement (.addReg x y) :=
  ⟨⟨"ADD_REG", 0xF00F, 0x8004⟩, by simp [opcodeRows, opcodeRowsLow, opcodeRows8, opcodeRowsHigh, opcodeRowsF],
    rfl, beq_iff_eq.2 ((wordRR_mask _ _ _ _).trans (by decide))⟩

theorem RowMatch.sub (x : RegIdx) (y : RegIdx) : RowMatch.Statement (.sub x y) :=
  ⟨⟨"SUB", 0xF00F, 0x8005⟩, by simp [opcodeRows, opcodeRowsLow, opcodeRows8, opcodeRowsHigh, opcodeRowsF],
    rfl, beq_iff_eq.2 ((wordRR_mask _ _ _ _).trans (by decide))⟩

theorem RowMatch.shr (x : RegIdx) (y : RegIdx) : RowMatch.Statement (.shr x y) :=
  ⟨⟨"SHR", 0xF00F, 0x8006⟩, by simp [opcodeRows, opcodeRowsLow, opcodeRows8, opcodeRowsHigh, opcodeRowsF],
    rfl, beq_iff_eq.2 ((wordRR_mask _ _ _ _).trans (by decide))⟩

theorem RowMatch.subn (x : RegIdx) (y : RegIdx) : RowMatch.Statement (.subn x y) :=
  ⟨⟨"SUBN", 0xF00F, 0x8007⟩, by simp [opcodeRows, opcodeRowsLow, opcodeRows8, opcodeRowsHigh, opcodeRowsF],
    rfl, beq_iff_eq.2 ((wordRR_mask _ _ _ _).trans (by decide))⟩

theorem RowMatch.shl (x : RegIdx) (y : RegIdx) : RowMatch.Statement (.shl x y) :=
  ⟨⟨"SHL", 0xF00F, 0x800E⟩, by simp [opcodeRows, opcodeRowsLow, opcodeRows8, opcodeRowsHigh, opcodeRowsF],
    rfl, beq_iff_eq.2 ((wordRR_mask _ _ _ _).trans (by decide))⟩

theorem RowMatch.sneReg (x : RegIdx) (y : RegIdx) : RowMatch.Statement (.sneReg x y) :=
  ⟨⟨"SNE_REG", 0xF00F, 0x9000⟩, by simp [opcodeRows, opcodeRowsLow, opcodeRows8, opcodeRowsHigh, opcodeRowsF],
    rfl, beq_iff_eq.2 ((wordRR_mask _ _ _ _).trans (by decide))⟩

theorem RowMatch.ldI (nnn : Addr12) : RowMatch.Statement (.ldI nnn) :=
  ⟨⟨"LD_I", 0xF000, 0xA000⟩, by simp [opcodeRows, opcodeRowsLow, opcodeRows8, opcodeRowsHigh, opcodeRowsF],
    rfl, beq_iff_eq.2 ((wordA_mask _ _).trans (by decide))⟩

theorem RowMatch.jpV0 (nnn : Addr12) : RowMatch.Statement (.jpV0 nnn) :=
  ⟨⟨"JP_V0", 0xF000, 0xB000⟩, by simp [opcodeRows, opcodeRowsLow, opcodeRows8, opcodeRowsHigh, opcodeRowsF],
    rfl, beq_iff_eq.2 ((wordA_mask _ _).trans (by decide))⟩

theorem RowMatch.rnd (x : RegIdx) (nn : Byte) : RowMatch.Statement (.rnd x nn) :=
  ⟨⟨"RND", 0xF000, 0xC000⟩, by simp [opcodeRows, opcodeRowsLow, opcodeRows8, opcodeRowsHigh, opcodeRowsF],
    rfl, beq_iff_eq.2 ((wordRI_maskOp _ _ _).trans (by decide))⟩

theorem RowMatch.drw (x : RegIdx) (y : RegIdx) (n : Nibble) : RowMatch.Statement (.drw x y n) :=
  ⟨⟨"DRW", 0xF000, 0xD000⟩, by simp [opcodeRows, opcodeRowsLow, opcodeRows8, opcodeRowsHigh, opcodeRowsF],
    rfl, beq_iff_eq.2 ((wordRR_maskOp _ _ _ _).trans (by decide))⟩

theorem RowMatch.skp (x : RegIdx) : RowMatch.Statement (.skp x) :=
  ⟨⟨"SKP", 0xF0FF, 0xE09E⟩, by simp [opcodeRows, opcodeRowsLow, opcodeRows8, opcodeRowsHigh, opcodeRowsF],
    rfl, beq_iff_eq.2 ((wordRI_mask _ _ _).trans (by decide))⟩

theorem RowMatch.sknp (x : RegIdx) : RowMatch.Statement (.sknp x) :=
  ⟨⟨"SKNP", 0xF0FF, 0xE0A1⟩, by simp [opcodeRows, opcodeRowsLow, opcodeRows8, opcodeRowsHigh, opcodeRowsF],
    rfl, beq_iff_eq.2 ((wordRI_mask _ _ _).trans (by decide))⟩

theorem RowMatch.ldVxDt (x : RegIdx) : RowMatch.Statement (.ldVxDt x) :=
  ⟨⟨"LD_VX_DT", 0xF0FF, 0xF007⟩, by simp [opcodeRows, opcodeRowsLow, opcodeRows8, opcodeRowsHigh, opcodeRowsF],
    rfl, beq_iff_eq.2 ((wordRI_mask _ _ _).trans (by decide))⟩

theorem RowMatch.ldVxK (x : RegIdx) : RowMatch.Statement (.ldVxK x) :=
  ⟨⟨"LD_VX_K", 0xF0FF, 0xF00A⟩, by simp [opcodeRows, opcodeRowsLow, opcodeRows8, opcodeRowsHigh, opcodeRowsF],
    rfl, beq_iff_eq.2 ((wordRI_mask _ _ _).trans (by decide))⟩

theorem RowMatch.ldDtVx (x : RegIdx) : RowMatch.Statement (.ldDtVx x) :=
  ⟨⟨"LD_DT_VX", 0xF0FF, 0xF015⟩, by simp [opcodeRows, opcodeRowsLow, opcodeRows8, opcodeRowsHigh, opcodeRowsF],
    rfl, beq_iff_eq.2 ((wordRI_mask _ _ _).trans (by decide))⟩

theorem RowMatch.ldStVx (x : RegIdx) : RowMatch.Statement (.ldStVx x) :=
  ⟨⟨"LD_ST_VX", 0xF0FF, 0xF018⟩, by simp [opcodeRows, opcodeRowsLow, opcodeRows8, opcodeRowsHigh, opcodeRowsF],
    rfl, beq_iff_eq.2 ((wordRI_mask _ _ _).trans (by decide))⟩

theorem RowMatch.addI (x : RegIdx) : RowMatch.Statement (.addI x) :=
  ⟨⟨"ADD_I", 0xF0FF, 0xF01E⟩, by simp [opcodeRows, opcodeRowsLow, opcodeRows8, opcodeRowsHigh, opcodeRowsF],
    rfl, beq_iff_eq.2 ((wordRI_mask _ _ _).trans (by decide))⟩

theorem RowMatch.ldF (x : RegIdx) : RowMatch.Statement (.ldF x) :=
  ⟨⟨"LD_F", 0xF0FF, 0xF029⟩, by simp [opcodeRows, opcodeRowsLow, opcodeRows8, opcodeRowsHigh, opcodeRowsF],
    rfl, beq_iff_eq.2 ((wordRI_mask _ _ _).trans (by decide))⟩

theorem RowMatch.ldB (x : RegIdx) : RowMatch.Statement (.ldB x) :=
  ⟨⟨"LD_B", 0xF0FF, 0xF033⟩, by simp [opcodeRows, opcodeRowsLow, opcodeRows8, opcodeRowsHigh, opcodeRowsF],
    rfl, beq_iff_eq.2 ((wordRI_mask _ _ _).trans (by decide))⟩

theorem RowMatch.ldMemVx (x : RegIdx) : RowMatch.Statement (.ldMemVx x) :=
  ⟨⟨"LD_MEM_VX", 0xF0FF, 0xF055⟩, by simp [opcodeRows, opcodeRowsLow, opcodeRows8, opcodeRowsHigh, opcodeRowsF],
    rfl, beq_iff_eq.2 ((wordRI_mask _ _ _).trans (by decide))⟩

theorem RowMatch.ldVxMem (x : RegIdx) : RowMatch.Statement (.ldVxMem x) :=
  ⟨⟨"LD_VX_MEM", 0xF0FF, 0xF065⟩, by simp [opcodeRows, opcodeRowsLow, opcodeRows8, opcodeRowsHigh, opcodeRowsF],
    rfl, beq_iff_eq.2 ((wordRI_mask _ _ _).trans (by decide))⟩

end Sys2Proof.Laws
end

