-- ==== Sys2Proof/Tests/Slice0.lean ====
section
/-! SUPPORT. Small tests of the model. Expected results come from spec/95_test_vectors.md (vector ids in the names or
the comments) or are worked out by hand from the rule named. Then, for every statement of Obligations.lean that has
hypotheses, a theorem `witness_…` that meets them, clause by clause, at the bounds of their ranges. -/

namespace Sys2Proof.Tests

open Sys2Proof.Machine Sys2Proof.Claims

/-! ## Helpers -/

/-- The state a step or an instruction answers. -/
def answer : Result → Option State
  | .next t => some t
  | .fault _ => none
  | .refused _ => none

/-- The state with the registers of the list written. -/
def regs (l : List (RegIdx × Byte)) (s : State) : State := l.foldl (fun t p => t.setReg p.1 p.2) s

/-- The state with the bytes of the list written from address `a` on. -/
def bytes (a : Nat) (bs : List Byte) (s : State) : State := (s.writeBytes a bs).getD s

/-- The start state of the vectors: reset, running, with the registers and the index register given. -/
def start (l : List (RegIdx × Byte)) (i : Word) : State := ((regs l State.reset).setI i).setRun .running

/-- The state with the agent step `e` next. -/
def due (e : Event) (s : State) : State := { s with io := { s.io with schedule := [e] } }

/-- What is seen of the state after the word `w` was placed at `pc`, fetched and run. -/
def after {α : Type} (w : Nat) (s : State) (f : State → α) : Option α := (answer (step (s.withFetchWord 16 w))).map f

/-- What is seen of the state after the agent step `e`. -/
def afterEvent {α : Type} (e : Event) (s : State) (f : State → α) : Option α := (answer (step (due e s))).map f

/-- The registers X and VF. -/
def xf (x : RegIdx) (t : State) : Byte × Byte := (t.reg x, t.reg 15)

/-- Three bytes of memory. -/
def three (a : Nat) (t : State) : List Byte := [t.byteAt a, t.byteAt (a + 1), t.byteAt (a + 2)]

/-! ## Well-formedness: the parameters of R7; every instruction is well-formed (R78) -/

theorem test_default_parameters_accepted : Config.wellFormed {} = true := by decide
theorem test_no_stack_refused : Config.wellFormed { stackCapacity := 0 } = false := by decide
theorem test_font_base_bound :
    (Config.wellFormed { fontBase := 0x1B0 }, Config.wellFormed { fontBase := 0x1B1 }) = (true, false) := by decide
theorem test_zero_tick_period_refused :
    (Config.wellFormed { tickPeriod := some 1 }, Config.wellFormed { tickPeriod := some 0 }) = (true, false) := by
  decide
theorem test_every_instruction_well_formed (i : Instr) : i.wellFormed = true := rfl

/-! ## Decoding: a word of each instruction written out from its row of R75, and the unknown words of E1 to E17 -/

theorem test_decode_family0 : decode 0x00E0 = some .cls ∧ decode 0x00EE = some .ret := by decide
theorem test_decode_jp : decode 0x1234 = some (.jp 0x234) := by decide
theorem test_decode_call : decode 0x2FED = some (.call 0xFED) := by decide
theorem test_decode_seImm : decode 0x332A = some (.seImm 3 0x2A) := by decide
theorem test_decode_sneImm : decode 0x4CF1 = some (.sneImm 0xC 0xF1) := by decide
theorem test_decode_seReg : decode 0x5120 = some (.seReg 1 2) := by decide
theorem test_decode_ldImm : decode 0x6A7F = some (.ldImm 0xA 0x7F) := by decide
theorem test_decode_addImm : decode 0x72F0 = some (.addImm 2 0xF0) := by decide
theorem test_decode_ldReg : decode 0x8F10 = some (.ldReg 15 1) := by decide
theorem test_decode_or : decode 0x8231 = some (.or 2 3) := by decide
theorem test_decode_and : decode 0x8452 = some (.and 4 5) := by decide
theorem test_decode_xor : decode 0x8673 = some (.xor 6 7) := by decide
theorem test_decode_addReg : decode 0x8AB4 = some (.addReg 10 11) := by decide
theorem test_decode_sub : decode 0x8CD5 = some (.sub 12 13) := by decide
theorem test_decode_shr : decode 0x8416 = some (.shr 4 1) := by decide
theorem test_decode_subn : decode 0x8017 = some (.subn 0 1) := by decide
theorem test_decode_shl : decode 0x89AE = some (.shl 9 10) := by decide
theorem test_decode_sneReg : decode 0x9AB0 = some (.sneReg 10 11) := by decide
theorem test_decode_ldI : decode 0xA2F0 = some (.ldI 0x2F0) := by decide
theorem test_decode_jpV0 : decode 0xB300 = some (.jpV0 0x300) := by decide
theorem test_decode_rnd : decode 0xC30F = some (.rnd 3 0x0F) := by decide
theorem test_decode_drw : decode 0xD123 = some (.drw 1 2 3) := by decide
theorem test_decode_skp : decode 0xE29E = some (.skp 2) := by decide
theorem test_decode_sknp : decode 0xE2A1 = some (.sknp 2) := by decide
theorem test_decode_ldVxDt : decode 0xF307 = some (.ldVxDt 3) := by decide
theorem test_decode_ldVxK : decode 0xF30A = some (.ldVxK 3) := by decide
theorem test_decode_ldDtVx : decode 0xF315 = some (.ldDtVx 3) := by decide
theorem test_decode_ldStVx : decode 0xF018 = some (.ldStVx 0) := by decide
theorem test_decode_addI : decode 0xF21E = some (.addI 2) := by decide
theorem test_decode_ldF : decode 0xFA29 = some (.ldF 10) := by decide
theorem test_decode_ldB : decode 0xF533 = some (.ldB 5) := by decide
theorem test_decode_ldMemVx : decode 0xF255 = some (.ldMemVx 2) := by decide
theorem test_decode_ldVxMem : decode 0xF165 = some (.ldVxMem 1) := by decide
theorem test_decode_unknown_0_5_9 :
    [0x0000, 0x00E1, 0x00EF, 0x0123, 0x0FFF, 0x5011, 0x9AB1].map decode = List.replicate 7 none := by decide
theorem test_decode_unknown_8 :
    [0x8008, 0x8009, 0x800A, 0x800B, 0x800C, 0x800D, 0x800F].map decode = List.replicate 7 none := by decide
theorem test_decode_unknown_E_F :
    [0xE09F, 0xE0A0, 0xE000, 0xEFFF, 0xF000, 0xF008, 0xF01F, 0xF056, 0xF0FF, 0xF075, 0xF085].map decode =
      List.replicate 11 none := by decide
/-- E16 and E17: the byte at the lower address is the high byte. -/
theorem test_decode_bytes : decodeBytes [0x83, 0xA4, 0x01] = .ok (.addReg 3 10, [0x01]) := rfl
theorem test_decode_bytes_unknown : decodeBytes [0x80, 0x08] = .error (.unknownOpcode 0x8008) := rfl
theorem test_decode_bytes_truncated : decodeBytes [0x83] = .error .truncated := rfl
theorem test_decode_table_word : decodeTableWord 16 0xD123 = some (.drw 1 2 3) := by decide
/-- R82, R81 by hand: DRW V1, V2, 3 is D1 23. -/
theorem test_encode_bytes : encodeBytes (.drw 1 2 3) = [0xD1, 0x23] := by decide

/-! ## Control flow (K vectors) -/

theorem test_K1_se_imm_taken : after 0x332A (start [(3, 0x2A)] 0) State.pc = some 0x204 := by decide
theorem test_K2_se_imm_not_taken : after 0x332A (start [(3, 0x2B)] 0) State.pc = some 0x202 := by decide
theorem test_K3_sne_imm_not_taken : after 0x432A (start [(3, 0x2A)] 0) State.pc = some 0x202 := by decide
theorem test_K4_sne_imm_taken : after 0x432A (start [] 0) State.pc = some 0x204 := by decide
theorem test_K5_se_reg_taken : after 0x5120 (start [(1, 7), (2, 7)] 0) State.pc = some 0x204 := by decide
theorem test_K6_se_reg_not_taken : after 0x5120 (start [(1, 7), (2, 8)] 0) State.pc = some 0x202 := by decide
theorem test_K8_sne_reg_taken : after 0x9120 (start [(1, 7), (2, 8)] 0) State.pc = some 0x204 := by decide
theorem test_K10_sne_reg_not_taken : after 0x9110 (start [(1, 9)] 0) State.pc = some 0x202 := by decide
theorem test_K11_jp : after 0x1234 (start [] 0) State.pc = some 0x234 := by decide
theorem test_K12_jp_odd : after 0x1201 (start [] 0) State.pc = some 0x201 := by decide
theorem test_K13_jp_v0 : after 0xB300 (start [(0, 4)] 0) State.pc = some 0x304 := by decide
theorem test_K14_jp_v0_not_reduced : after 0xBFFF (start [(0, 0xFF)] 0) State.pc = some 0x10FE := by decide
theorem test_K18_call :
    after 0x2FFF ((start [] 0).setPc 0xFFE) (fun t => (t.stack[0]?, t.sp, t.pc)) = some (some 0x1000, 1, 0xFFF) := by
  decide
/-- P6, step 17: the stack is full, and `pc` and `sp` stay. -/
theorem test_P6_call_overflow :
    after 0x2200 { start [] 0 with sp := 16 } (fun t => (t.run, t.fault, t.sp, t.pc)) =
      some (.halted, some ⟨.stackOverflow, 0x200, some 0x2200⟩, 16, 0x200) := by decide
theorem test_K16_ret :
    after 0x00EE ((start [] 0).push 0x206) (fun t => (t.sp, t.pc)) = some (0, 0x206) := by decide
theorem test_P7_ret_underflow :
    after 0x00EE (start [] 0) (fun t => (t.run, t.fault, t.pc)) =
      some (.halted, some ⟨.stackUnderflow, 0x200, some 0x00EE⟩, 0x200) := by decide

/-! ## ALU (A vectors) -/

theorem test_A1_ld_imm : after 0x6A7F (start [] 0) (xf 10) = some (0x7F, 0) := by decide
theorem test_A3_add_imm : after 0x7220 (start [(2, 0xF0), (15, 9)] 0) (xf 2) = some (0x10, 9) := by decide
theorem test_A5_add_imm_vf : after 0x7F01 (start [(15, 0xFF)] 0) (xf 15) = some (0, 0) := by decide
theorem test_A6_ld_reg : after 0x8010 (start [(1, 0x33)] 0) (xf 0) = some (0x33, 0) := by decide
theorem test_A8_or : after 0x8011 (start [(0, 0xF0), (1, 0x0F), (15, 7)] 0) (xf 0) = some (0xFF, 7) := by decide
theorem test_A9_and : after 0x8012 (start [(0, 0xF3), (1, 0x3C), (15, 7)] 0) (xf 0) = some (0x30, 7) := by decide
theorem test_A10_xor : after 0x8013 (start [(0, 0xFF), (1, 0x0F), (15, 7)] 0) (xf 0) = some (0xF0, 7) := by decide
theorem test_A11_xor_same : after 0x8003 (start [(0, 0x5A)] 0) (xf 0) = some (0, 0) := by decide
theorem test_A14_add : after 0x8014 (start [(0, 0xFF), (1, 0xFF)] 0) (xf 0) = some (0xFE, 1) := by decide
theorem test_A16_add_vf_last : after 0x8F14 (start [(15, 0xF0), (1, 0x20)] 0) (xf 15) = some (1, 1) := by decide
theorem test_A21_sub_equal : after 0x8015 (start [(0, 5), (1, 5)] 0) (xf 0) = some (0, 1) := by decide
theorem test_A24_sub_vf_last : after 0x8F15 (start [(15, 3), (1, 5)] 0) (xf 15) = some (0, 0) := by decide
theorem test_A34_shr_ignores_y : after 0x8416 (start [(4, 4), (1, 0xFF)] 0) (xf 4) = some (2, 0) := by decide
theorem test_A35_shr_vf : after 0x8F06 (start [(15, 3)] 0) (xf 15) = some (1, 1) := by decide
theorem test_A27_subn : after 0x8017 (start [(0, 2), (1, 1)] 0) (xf 0) = some (0xFF, 0) := by decide
theorem test_A28_subn : after 0x8017 (start [(0, 1), (1, 3)] 0) (xf 0) = some (2, 1) := by decide
theorem test_A36_shl : after 0x840E (start [(4, 0x81)] 0) (xf 4) = some (2, 1) := by decide
theorem test_A39_shl_vf : after 0x8F0E (start [(15, 0x80)] 0) (xf 15) = some (1, 1) := by decide
/-- A40, with a deterministic source: one byte is drawn. -/
theorem test_A40_rnd :
    after 0xC30F { start [] 0 with io := { rands := [0xA7, 0x11] } } (fun t => (t.reg 3, t.io.rands)) =
      some (7, [0x11]) := by decide
/-- With no listed byte the drawn byte is free, and exactly one is drawn (R141). -/
theorem test_A41_rnd_free : after 0xC300 (start [] 0) (fun t => t.io.draws) = some 1 := by decide

/-! ## Index register and memory (M vectors) -/

theorem test_M1_ld_i : after 0xA2F0 (start [] 0) State.I = some 0x2F0 := by decide
theorem test_M3_add_i : after 0xF21E (start [(2, 1)] 0xFFF) (fun t => (t.I, t.reg 15)) = some (0x1000, 0) := by decide
theorem test_M5_add_i_wraps : after 0xF21E (start [(2, 0xFF)] 0xFFFF) State.I = some 0x00FE := by decide
theorem test_M7_ld_f : after 0xF029 (start [(0, 0x1A)] 0) State.I = some 0x32 := by decide
theorem test_M8_ld_f : after 0xF029 (start [(0, 0xFF)] 0) State.I = some 0x4B := by decide
theorem test_M9_bcd : after 0xF533 (start [(5, 0xFF)] 0x300) (three 0x300) = some [2, 5, 5] := by decide
theorem test_M11b_bcd_out_of_bounds :
    after 0xF533 (start [(5, 0x2A)] 0xFFE) (fun t => (t.fault, t.byteAt 0xFFE, t.byteAt 0xFFF, t.pc)) =
      some (some ⟨.memOutOfBounds, 0x200, some 0xF533⟩, 0, 0, 0x200) := by decide
theorem test_M12_store :
    after 0xF155 (start [(0, 0x11), (1, 0x22), (2, 0x33)] 0x400) (three 0x400) = some [0x11, 0x22, 0] := by decide
theorem test_M14_store_out_of_bounds :
    after 0xFF55 (start [(0, 1), (1, 2)] 0xFF1) (fun t => (t.fault, three 0xFF1 t)) =
      some (some ⟨.memOutOfBounds, 0x200, some 0xFF55⟩, [0, 0, 0]) := by decide
theorem test_M15_load :
    after 0xF165 (bytes 0x400 [0xAA, 0xBB, 0xCC] (start [(2, 0x77)] 0x400))
      (fun t => (t.reg 0, t.reg 1, t.reg 2, t.I)) = some (0xAA, 0xBB, 0x77, 0x400) := by decide
theorem test_M18_load_out_of_bounds :
    after 0xF165 (start [(0, 5), (1, 6)] 0xFFF) (fun t => (t.run, t.reg 0, t.reg 1)) = some (.halted, 5, 6) := by
  decide

/-! ## Display (G vectors) -/

theorem test_G3_draw_wraps_the_corner :
    after 0xD011 (bytes 0x300 [0x80] (start [(0, 0x46), (1, 0x28)] 0x300))
      (fun t => (t.fb.pixel 6 8, t.fb.pixel 7 8, t.reg 15)) = some (true, false, 0) := by decide
/-- G8: DFF1 reads VF as coordinate before it writes the collision; here the pixel is on, so VF is 1. -/
theorem test_G8_draw_collides :
    after 0xDFF1 (bytes 0x300 [0x80] { start [(15, 3)] 0x300 with fb := Framebuffer.flip 0 3 3 })
      (fun t => (t.fb.pixel 3 3, t.reg 15)) = some (false, 1) := by decide
theorem test_G9_cls : after 0x00E0 { start [] 0 with fb := Framebuffer.flip 0 3 3 } State.fb = some 0 := by decide

/-! ## Timers and keys (T vectors) -/

/-- T3: only the low nibble of V2 names the key. -/
theorem test_T3_skp :
    after 0xE29E { start [(2, 0x15)] 0 with io := { keys := 0x0020 } } State.pc = some 0x204 := by decide
theorem test_T2_skp : after 0xE29E (start [(2, 5)] 0) State.pc = some 0x202 := by decide
theorem test_T6_sknp :
    after 0xE2A1 { start [(2, 0xFF)] 0 with io := { keys := 0x8000 } } State.pc = some 0x202 := by decide
theorem test_T5_sknp : after 0xE2A1 (start [(2, 5)] 0) State.pc = some 0x204 := by decide
theorem test_T7_ld_vx_dt :
    after 0xF307 { start [] 0 with DT := 0x3C } (fun t => (t.reg 3, t.DT)) = some (0x3C, 0x3C) := by decide
theorem test_T8_ld_dt_vx : after 0xF315 (start [(3, 0x0A)] 0) State.DT = some 0x0A := by decide
theorem test_T10_ld_st_vx :
    after 0xF018 (start [(0, 2)] 0) (fun t => (t.ST, t.soundOn)) = some (2, true) := by decide
theorem test_T15_ld_vx_k :
    after 0xF30A (start [] 0) (fun t => (t.run, t.pc, t.kprev)) = some (.awaitingKey 3, 0x200, 0) := by decide
/-- T16 at 0x200: the poll stores key 7 and moves on. -/
theorem test_T16_key_poll :
    afterEvent (.step 0x0080) ((start [] 0).enterWait 3) (fun t => (t.reg 3, t.pc, t.run, t.kprev)) =
      some (7, 0x202, .running, 0x0080) := by decide
/-- P5: a key already held does not end the wait. -/
theorem test_P5_held_key :
    afterEvent (.step 0x0001) { start [] 0 with run := .awaitingKey 1, kprev := 0x0001 } (fun t => (t.run, t.pc)) =
      some (.awaitingKey 1, 0x200) := by decide
theorem test_T11_tick :
    afterEvent .tick { start [] 0 with ST := 5 } (fun t => (t.DT, t.ST)) = some (0, 4) := by decide
/-- T12: 40 units of time with TICK_PERIOD 16. -/
theorem test_T12_advance :
    afterEvent (.advance 40) { start [] 0 with DT := 5, cfg := { tickPeriod := some 16 } }
      (fun t => (t.DT, t.tacc)) = some (3, 8) := by decide

/-! ## Unknown opcodes, fetch, Start and Stop -/

theorem test_unknown_halts :
    after 0x8008 (start [] 0) (fun t => (t.run, t.fault, t.pc)) =
      some (.halted, some ⟨.unknownOpcode, 0x200, some 0x8008⟩, 0x200) := by decide
theorem test_unknown_skipped :
    after 0x8008 { start [] 0 with cfg := { unknownPolicy := .skip } }
      (fun t => (t.run, t.fault, t.pc, t.io.reports)) =
      some (.running, none, 0x202, [⟨.unknownOpcode, 0x200, some 0x8008⟩]) := by decide
/-- P7, second program, step 2. -/
theorem test_P7_fetch_out_of_memory :
    afterEvent (.step 0) ((start [] 0).setPc 0xFFF) (fun t => (t.run, t.fault, t.pc)) =
      some (.halted, some ⟨.memOutOfBounds, 0xFFF, none⟩, 0xFFF) := by decide
theorem test_start :
    afterEvent (.start [0x00, 0xEE]) { start [(1, 9)] 0 with run := .halted }
      (fun t => (t.run, t.pc, t.reg 1, t.byteAt 0x201)) = some (.running, 0x200, 0, 0xEE) := by decide
theorem test_stop : afterEvent .stop (start [] 0) State.run = some .stopped := by decide

/-! ## Witnesses -/

/-- The start state with the word `w` at `pc` and a `Step` next. -/
def stepAt (w : Nat) (pc : Word) : State := ((start [] 0).setPc pc).withFetchWord 16 w

/-- `s` meets what the statements about a running `Step` ask, at `pc`. -/
abbrev Ready (s : State) : Prop := s.nextEvent = .step 0 ∧ s.run = .running ∧ s.pc.toNat + 1 < 4096

theorem witness_EncodeOfDecodeIsTheWord : decode 0x8AB4 = some (.addReg 10 11) ∧ decode 0xFF65 = some (.ldVxMem 15) := by
  decide
theorem witness_DecodeFollowsTheOpcodeMap : decode 0x5010 = some (.seReg 0 1) ∧ decode 0x5011 = none := by decide
theorem witness_OpcodeRowsAreDisjoint :
    (⟨"SE_REG", 0xF00F, 0x5000⟩ : OpRow) ∈ opcodeRows ∧ selectsRow 0x5010 ⟨"SE_REG", 0xF00F, 0x5000⟩ = true := by
  decide
theorem witness_StepRunsTheDecodedInstruction :
    (Ready (stepAt 0x60FF 0x200) ∧ decode (wordAtPc (stepAt 0x60FF 0x200)) = some (.ldImm 0 0xFF)) ∧
    (Ready (stepAt 0x60FF 0xFFE) ∧ decode (wordAtPc (stepAt 0x60FF 0xFFE)) = some (.ldImm 0 0xFF)) := by decide
theorem witness_StepOutsideRunningDoesNothing :
    ((due (.step 1) State.reset).nextEvent = .step 1 ∧ (due (.step 1) State.reset).run = .stopped) ∧
    ((due (.step 1) (State.reset.setRun .halted)).nextEvent = .step 1 ∧
      (due (.step 1) (State.reset.setRun .halted)).run = .halted) := by decide
theorem witness_FetchOutOfMemoryHalts :
    (due (.step 0) ((start [] 0).setPc 0xFFF)).nextEvent = .step 0 ∧
    (due (.step 0) ((start [] 0).setPc 0xFFF)).run = .running ∧
    4095 ≤ (due (.step 0) ((start [] 0).setPc 0xFFF)).pc.toNat := by decide
theorem witness_UnknownOpcodeHaltsByDefault :
    Ready (stepAt 0x8008 0xFFE) ∧ decode (wordAtPc (stepAt 0x8008 0xFFE)) = none ∧
    (stepAt 0x8008 0xFFE).cfg.unknownPolicy = .halt := by decide
/-- The state of `stepAt`, with the Skip policy. -/
def skipAt (w : Nat) (pc : Word) : State := { stepAt w pc with cfg := { unknownPolicy := .skip } }
theorem witness_UnknownOpcodeIsSkippedUnderSkip :
    Ready (skipAt 0x8008 0xFFE) ∧ decode (wordAtPc (skipAt 0x8008 0xFFE)) = none ∧
    (skipAt 0x8008 0xFFE).cfg.unknownPolicy = .skip := by decide
/-- A running machine with a known period, the delay timer running and a `Tick` next. -/
def ticking : State := due .tick { start [] 0 with DT := 5, cfg := { tickPeriod := some 16 } }
theorem ticking_stack : ticking.stack = List.replicate 16 0 := by decide
theorem witness_EveryStepKeepsTheInvariant_inv : ticking.Inv where
  cfg := by decide
  mem := by decide
  stack := by decide
  pc := ⟨by decide, fun a h => by rw [ticking_stack] at h; rw [List.eq_of_mem_replicate h]; decide, fun _ _ => by decide⟩
  tacc := by decide
  fault := by decide
theorem witness_EveryStepKeepsTheInvariant_next : step ticking = .next (tick ticking.popEvent) :=
  step_of_event (e := .tick) rfl
theorem witness_InstructionFaults_raised :
    faultKindOf (.call 0) { start [] 0 with sp := 16 } = some .stackOverflow ∧
    faultKindOf .ret (start [] 0) = some .stackUnderflow ∧
    faultKindOf (.drw 0 0 1) (start [] 0x1000) = some .memOutOfBounds ∧
    faultKindOf (.ldB 0) (start [] 0xFFE) = some .memOutOfBounds ∧
    faultKindOf (.ldMemVx 15) (start [] 0xFF1) = some .memOutOfBounds ∧
    faultKindOf (.ldVxMem 0) (start [] 0x1000) = some .memOutOfBounds := by decide
theorem witness_InstructionFaults_none :
    faultKindOf (.call 0) { start [] 0 with sp := 15 } = none ∧
    faultKindOf .ret { start [] 0 with sp := 1 } = none ∧
    faultKindOf (.drw 0 0 0) (start [] 0xFFFF) = none ∧ faultKindOf (.drw 0 0 1) (start [] 0xFFF) = none ∧
    faultKindOf (.ldB 0) (start [] 0xFFD) = none ∧ faultKindOf (.ldMemVx 15) (start [] 0xFF0) = none ∧
    faultKindOf (.ldVxMem 0) (start [] 0xFFF) = none ∧ faultKindOf (.ldVxK 0) (start [] 0) = none := by decide
/-- CLS is in no list but the framebuffer's; JP is in none. -/
theorem witness_OnlyTheListedInstructionsWriteEachItem :
    (∃ t, exec .cls (start [] 0) = .next t) ∧ (∃ t, exec (.jp 0) (start [] 0) = .next t) ∧
    (∀ x y n nn nnn, Instr.cls ≠ .ldB x ∧ Instr.cls ≠ .ldMemVx x ∧ Instr.cls ≠ .ldI nnn ∧ Instr.cls ≠ .addI x ∧
      Instr.cls ≠ .ldF x ∧ Instr.cls ≠ .call nnn ∧ Instr.cls ≠ .ret ∧ Instr.cls ≠ .ldDtVx x ∧
      Instr.cls ≠ .ldStVx x ∧ Instr.cls ≠ .ldVxK x ∧ Instr.cls ≠ .rnd x nn ∧
      Instr.jp nnn ≠ .cls ∧ Instr.jp nnn ≠ .drw x y n) :=
  ⟨⟨_, rfl⟩, ⟨_, rfl⟩, fun _ _ _ _ _ => by simp⟩
/-- V3 is no destination of 8124, and V2 is beyond the run of F165. -/
theorem witness_OnlyDestinationRegistersChange :
    (∃ t, exec (.addReg 1 2) (start [] 0) = .next t) ∧ ¬ mayWriteReg (.addReg 1 2) 3 ∧
    (∃ t, exec (.ldVxMem 1) (start [] 0) = .next t) ∧ ¬ mayWriteReg (.ldVxMem 1) 2 :=
  ⟨⟨_, rfl⟩, by simp [mayWriteReg], ⟨_, rfl⟩, by simp [mayWriteReg]⟩
theorem witness_FlagIsZeroOrOne :
    (setsFlag (.shl 15 0) ∧ faultKindOf (.shl 15 0) (start [] 0) = none) ∧
    (setsFlag (.drw 0 0 1) ∧ faultKindOf (.drw 0 0 1) (start [] 0xFFF) = none) :=
  ⟨⟨trivial, by decide⟩, trivial, by decide⟩
/-- One free entry left; also for ReturnUndoesCall, with the state after the call as `u`. -/
theorem witness_CallPushesTheNextAddress :
    ({ start [] 0 with sp := 15 } : State).StackOk ∧
    ({ start [] 0 with sp := 15 } : State).sp < ({ start [] 0 with sp := 15 } : State).cfg.stackCapacity := by decide
theorem witness_ReturnPopsTheProgramCounter :
    ((start [] 0).push 0x206).StackOk ∧ 0 < ((start [] 0).push 0x206).sp := by decide
theorem witness_ReturnUndoesCall :
    ({ start [] 0 with sp := 15 } : State).StackOk ∧
    (answer (exec (.call 0x300) { start [] 0 with sp := 15 })).map (fun u => (u.stack[15]?, u.sp)) =
      some (some 0x202, 16) := by decide
theorem witness_RandomDrawsOneMaskedByte :
    ({ start [] 0 with io := { rands := [0xA7] } } : State).io.rands = 0xA7 :: [] ∧ (start [] 0).io.rands = [] := by
  decide
theorem witness_FontIndexPointsAtTheGlyph : ({ fontBase := 0x1B0 } : Config).fontBase ≤ 0x1B0 := by decide
theorem witness_BcdStoresThreeDigitsOrNone :
    (start [] 0xFFD).indexAddr + 2 < 4096 ∧ (start [] 0xFFE).indexAddr + 2 ≥ 4096 := by decide
/-- Also for RegisterLoadReadsTheRunOrNothing and LoadAfterStoreRestoresTheRegisters, at the longest and the shortest
run. -/
theorem witness_RegisterStoreWritesTheRunOrNothing :
    (start [] 0xFF0).indexAddr + (15 : RegIdx).toNat < 4096 ∧ (start [] 0xFF1).indexAddr + (15 : RegIdx).toNat ≥ 4096 ∧
    (start [] 0xFFF).indexAddr + (0 : RegIdx).toNat < 4096 ∧
    (start [] 0x1000).indexAddr + (0 : RegIdx).toNat ≥ 4096 := by decide
theorem witness_LoadAfterStoreRestoresTheRegisters :
    (start [] 0xFF0).indexAddr + (15 : RegIdx).toNat < 4096 ∧
    ∃ t, exec (.ldMemVx 0) (start [] 0xFFF) = .next t ∧ t.I = (start [] 0xFFF).I ∧ ∀ a, t.byteAt a = t.byteAt a :=
  ⟨by decide, _, rfl, rfl, fun _ => rfl⟩
/-- P8 before its step 4 (both bytes of the next word stored), at the last place, and a run that begins below the next
word and reaches over it; X = 0 stores one of its bytes. -/
theorem witness_StoreIsSeenByTheNextFetch :
    (((start [] 0xFFE).setPc 0xFFC).pc.toNat + 4 ≤ 4096 ∧
      ((start [] 0xFFE).setPc 0xFFC).indexAddr + (1 : RegIdx).toNat < 4096) ∧
    (((start [] 0x207).setPc 0x206).pc.toNat + 4 ≤ 4096 ∧
      ((start [] 0x207).setPc 0x206).indexAddr + (15 : RegIdx).toNat < 4096) ∧
    ((start [] 0xFFD).setPc 0xFFC).indexAddr + 2 < 4096 := by decide
/-- By hand from R154 and R153: FX55 with X = 0 and I = 0x203 gives the low byte of the next word; FX33 of 0xFF with
I = 0x201 gives its two bytes 5 and 5. -/
theorem test_store_over_the_next_word :
    after 0xF055 (start [(0, 0x34)] 0x203) State.fetchWord = some (some 0x0034) ∧
    after 0xF533 (start [(5, 0xFF)] 0x201) State.fetchWord = some (some 0x0505) := by decide
/-- G7: the last byte of memory is a sprite row; G5: no row at all. -/
def lastRow : State := bytes 0xFFF [0xFF] (start [(0, 0x3F), (1, 0x1F)] 0xFFF)
theorem witness_DrawFlips_ranges :
    lastRow.indexAddr + (1 : Nibble).toNat ≤ 4096 ∧ (0 : Nibble) = 0 := by decide
/-- The corner is (63, 31): (63, 31) is covered, and so is (0, 31), by wraparound. -/
theorem witness_DrawFlips_covered : Covered lastRow 0 1 1 63 31 ∧ Covered lastRow 0 1 1 0 31 :=
  ⟨⟨0, 0, by decide, by decide, by decide, by decide, by decide⟩,
    ⟨0, 1, by decide, by decide, by decide, by decide, by decide⟩⟩
/-- Only row 31 is covered. -/
theorem witness_DrawFlips_not_covered : ¬ Covered lastRow 0 1 1 63 0 := by
  rintro ⟨r, c, hr, -, -, -, hy⟩
  have h0 : r < 1 := hr
  have h1 : 0 = (31 % 32 + r) % 32 := hy
  omega
/-- The framebuffer is clear. -/
theorem witness_DrawFlips_no_collision : ¬ Collides lastRow 0 1 1 := by
  rintro ⟨px, py, hx, hy, -, h⟩
  have hc : lastRow.fb.pixel px py = false := by
    have hr : (Vector.replicate 32 (0 : BitVec 64))[py]'hy = 0 := by simp
    simp only [Framebuffer.pixel, dif_pos hy]
    exact (congrArg (fun v : BitVec 64 => v.getMsbD px) hr).trans (by simp)
  rw [hc] at h
  cases h
theorem witness_DrawFlips_collision :
    Collides { lastRow with fb := Framebuffer.flip 0 0 31 } 0 1 1 :=
  ⟨0, 31, by decide, by decide, ⟨0, 1, by decide, by decide, by decide, by decide, by decide⟩, by decide⟩
/-- X and Y are not VF; the first draw meets no pixel that is on, and the sprite has a 1 bit. -/
theorem witness_DrawingTwiceRestoresTheFramebuffer :
    ((0 : RegIdx) ≠ 15 ∧ (1 : RegIdx) ≠ 15 ∧ lastRow.indexAddr + (1 : Nibble).toNat ≤ 4096 ∧
      (answer (exec (.drw 0 1 1) lastRow)).map (fun t => t.reg 15) = some 0) ∧
    ∃ px py, Covered lastRow 0 1 1 px py :=
  ⟨by decide, 63, 31, 0, 0, by decide, by decide, by decide, by decide, by decide⟩
/-- With no row, no pixel is covered. -/
theorem witness_DrawingTwice_no_dot : ¬ ∃ px py, Covered lastRow 0 1 0 px py := by
  rintro ⟨px, py, r, c, hr, -⟩
  exact absurd hr (Nat.not_lt_zero r)
/-- G1: pixels (62, 31) and (63, 31) are the two low bits of the last byte. -/
theorem witness_PackedFramebufferHoldsEveryPixel :
    63 < 64 ∧ 31 < 32 ∧
    (State.fbp { start [] 0 with fb := Framebuffer.flip (Framebuffer.flip 0 62 31) 63 31 })[255]? = some 0x03 := by
  decide
/-- Keys 4 and 7 go down together, key 0 is held: 4 is the lowest new key; then no key is new. -/
def waiting (keys : Word) : State := due (.step keys) { start [] 0 with run := .awaitingKey 1, kprev := 0x0001 }
theorem witness_KeyPoll_new_key :
    (waiting 0x0091).nextEvent = .step 0x0091 ∧ (waiting 0x0091).run = .awaitingKey 1 ∧ 4 < 16 ∧
    (0x0091 : Word).getLsbD 4 = true ∧ (waiting 0x0091).kprev.getLsbD 4 = false ∧
    ∀ j, j < 4 → ¬ ((0x0091 : Word).getLsbD j = true ∧ (waiting 0x0091).kprev.getLsbD j = false) := by decide
theorem witness_KeyPoll_no_new_key :
    (waiting 0x0001).nextEvent = .step 0x0001 ∧ (waiting 0x0001).run = .awaitingKey 1 ∧
    ∀ k, k < 16 → ¬ ((0x0001 : Word).getLsbD k = true ∧ (waiting 0x0001).kprev.getLsbD k = false) := by decide
theorem witness_TickDecrementsTheTimers : ticking.nextEvent = .tick := by decide
theorem witness_TicksCountDownToZero : ticking.io.schedule = List.replicate 1 Event.tick ++ [] := by decide
theorem witness_AdvanceTimeTicksAndKeepsTheRemainder :
    (due (.advance 40) ticking).nextEvent = .advance 40 ∧ (due (.advance 40) ticking).cfg.tickPeriod = some 16 ∧
    1 ≤ 16 := by decide
/-- The highest FONT_BASE: its last glyph ends where the image begins. -/
theorem witness_Start_font_base :
    (due (.start [0x12]) { start [] 0 with cfg := { fontBase := 0x1B0 } }).cfg.fontBase ≤ 0x1B0 ∧
    afterEvent (.start [0x12]) { start [] 0 with cfg := { fontBase := 0x1B0 } }
      (fun t => (t.byteAt 0x1AF, t.byteAt 0x1B0, t.byteAt 0x1FF, t.byteAt 0x200)) = some (0, 0xF0, 0x80, 0x12) := by
  decide
theorem witness_Start_fits :
    (due (.start [0x12]) (start [] 0)).nextEvent = .start [0x12] ∧ ([0x12] : List Byte).length ≤ 3584 ∧
    (List.replicate 3584 (0 : Byte)).length ≤ 3584 := ⟨rfl, by decide, by rw [List.length_replicate]⟩
theorem witness_Start_too_long :
    (due (.start (List.replicate 3585 0)) (start [] 0)).nextEvent = .start (List.replicate 3585 0) ∧
    3584 < (List.replicate 3585 (0 : Byte)).length := ⟨rfl, by rw [List.length_replicate]; decide⟩
theorem witness_StopOnlyStops : (due .stop (start [] 0)).nextEvent = .stop := by decide
theorem witness_HaltedIsLeftOnlyByStartOrStop :
    (ticking.setRun .halted).run = .halted ∧ (∃ t, step (ticking.setRun .halted) = .next t) ∧
    (∀ image, (ticking.setRun .halted).nextEvent ≠ .start image) ∧ (ticking.setRun .halted).nextEvent ≠ .stop :=
  ⟨rfl, ⟨_, rfl⟩, fun _ h => (by cases h), by decide⟩
/-- M9: the byte at 0x300 becomes 2. -/
theorem witness_OnlyStartAndStoresChangeMemory :
    after 0xF533 (start [(5, 0xFF)] 0x300) (fun t => t.byteAt 0x300) = some 2 ∧
    ((start [(5, 0xFF)] 0x300).withFetchWord 16 0xF533).byteAt 0x300 = 0 := by decide

end Sys2Proof.Tests
end

section
/-! SUPPORT. Control transfer (41_control_flow.md): what JP and the compare-and-skip instructions answer, and what a
change of the program counter leaves as before. -/

namespace Sys2Proof.Proofs

open Sys2Proof.Machine Sys2Proof.Claims

/-! ## The frame of a write to the program counter -/

theorem regsSame_setPc (s : State) (v : Word) : RegsSame s (s.setPc v) := fun _ => State.setPc_reg ..

theorem othersSame_setPc (s : State) (v : Word) : OthersSame s (s.setPc v) := by
  constructor <;> simp

/-- R118: the skip rule, for a condition of the statements that the computed condition decides. -/
theorem skips_skipIf (s : State) {c : Bool} {P : Prop} (hc : c = true ↔ P) : Skips s (s.skipIf c) P := by
  rw [State.skipIf_eq]
  exact {
    taken := fun h => by simp [hc.mpr h]
    notTaken := fun h => by simp [mt hc.mp h]
    regs := regsSame_setPc s _
    others := othersSame_setPc s _ }

/-! ## Targets and compared values, as unsigned numbers -/

/-- R110: a 12-bit field keeps its value as a 16-bit word. -/
theorem toNat_zextAddr (nnn : Addr12) : (zextAddr nnn).toNat = nnn.toNat :=
  BitVec.toNat_setWidth_of_le (by decide)

theorem beq_iff_toNat_eq (a b : Byte) : (a == b) = true ↔ a.toNat = b.toNat :=
  beq_iff_eq.trans BitVec.toNat_inj.symm

theorem bne_iff_toNat_ne (a b : Byte) : (a != b) = true ↔ a.toNat ≠ b.toNat :=
  bne_iff_ne.trans (not_congr BitVec.toNat_inj.symm)

/-! ## What each instruction answers -/

/-- R110: the target replaces the advance of the fetch. -/
theorem exec_jp (nnn : Addr12) (s : State) : exec (.jp nnn) s = .next (s.setPc (zextAddr nnn)) := rfl

/-- R114. -/
theorem exec_seImm (x : RegIdx) (nn : Byte) (s : State) :
    exec (.seImm x nn) s = .next (s.skipIf (s.reg x == nn)) := rfl

/-- R115. -/
theorem exec_sneImm (x : RegIdx) (nn : Byte) (s : State) :
    exec (.sneImm x nn) s = .next (s.skipIf (s.reg x != nn)) := rfl

/-- R116. -/
theorem exec_seReg (x y : RegIdx) (s : State) :
    exec (.seReg x y) s = .next (s.skipIf (s.reg x == s.reg y)) := rfl

/-- R117. -/
theorem exec_sneReg (x y : RegIdx) (s : State) :
    exec (.sneReg x y) s = .next (s.skipIf (s.reg x != s.reg y)) := rfl

/-! ## The obligations -/

/-- Settles O20: the answer is the old state with `pc` at the widened NNN, and writing `pc` changes nothing else. -/
theorem jumpSetsTheProgramCounter : Obligations.JumpSetsTheProgramCounter := by
  intro nnn s
  exact ⟨_, exec_jp nnn s, toNat_zextAddr nnn, regsSame_setPc s _, othersSame_setPc s _⟩

/-- Settles O25: each of the four is the skip rule R118 on its own comparison. -/
theorem compareSkipsAdvanceByFourOrTwo : Obligations.CompareSkipsAdvanceByFourOrTwo := by
  intro x y nn s
  refine ⟨⟨_, exec_seImm x nn s, ?_⟩, ⟨_, exec_sneImm x nn s, ?_⟩,
    ⟨_, exec_seReg x y s, ?_⟩, ⟨_, exec_sneReg x y s, ?_⟩⟩
  · exact skips_skipIf s (beq_iff_toNat_eq _ _)
  · exact skips_skipIf s (bne_iff_toNat_ne _ _)
  · exact skips_skipIf s (beq_iff_toNat_eq _ _)
  · exact skips_skipIf s (bne_iff_toNat_ne _ _)

end Sys2Proof.Proofs
end

section
/-! SUPPORT. The register ALU (42_alu.md): what a register write, and a register write with the flag last, leave as
before, and what LD_IMM, ADD_IMM, LD_REG and ADD_REG answer. -/

namespace Sys2Proof.Proofs

open Sys2Proof.Machine Sys2Proof.Claims

/-! ## The frame of a write to a register -/

theorem othersSame_trans {s t u : State} (h : OthersSame s t) (k : OthersSame t u) : OthersSame s u where
  bytes a := (k.bytes a).trans (h.bytes a)
  I := k.I.trans h.I
  stack := k.stack.trans h.stack
  sp := k.sp.trans h.sp
  fb := k.fb.trans h.fb
  DT := k.DT.trans h.DT
  ST := k.ST.trans h.ST
  run := k.run.trans h.run
  fault := k.fault.trans h.fault
  kprev := k.kprev.trans h.kprev
  tacc := k.tacc.trans h.tacc
  cfg := k.cfg.trans h.cfg
  io := k.io.trans h.io

theorem othersSame_setReg (s : State) (x : RegIdx) (v : Byte) : OthersSame s (s.setReg x v) := by
  constructor <;> simp

/-- The working copy the fetch leaves (R92), with one register written. -/
theorem othersSame_advance_setReg (s : State) (x : RegIdx) (v : Byte) : OthersSame s (s.advance.setReg x v) :=
  othersSame_trans (othersSame_setPc s _) (othersSame_setReg _ x v)

theorem writesReg_advance_setReg (s : State) (x : RegIdx) (v : Byte) : WritesReg s (s.advance.setReg x v) x where
  pc := rfl
  regs r hr := State.reg_setReg_other s.advance x r v hr
  others := othersSame_advance_setReg s x v

/-- R22: VF as the register the statements name. -/
theorem flagReg_eq : flagReg = 15 := rfl

/-- R143: the flag is written after the result, so it is VF that survives where the destination is VF. -/
theorem writesRegAndFlag_advance_setRegFlag (s : State) (x : RegIdx) {v : Byte} {f : Bool} {result flag : Nat}
    (hv : v.toNat = result) (hf : (flagByte f).toNat = flag) :
    WritesRegAndFlag s (s.advance.setRegFlag x v f) x result flag where
  flag := by rw [State.reg_setRegFlag, flagReg_eq, if_pos rfl, hf]
  result hx := by rw [State.reg_setRegFlag, flagReg_eq, if_neg hx, if_pos rfl, hv]
  pc := rfl
  regs r hrx hr15 := by rw [State.reg_setRegFlag, flagReg_eq, if_neg hr15, if_neg hrx, State.advance_reg]
  others := othersSame_trans (othersSame_advance_setReg s x v) (othersSame_setReg _ flagReg _)

/-! ## Flags as unsigned numbers -/

/-- R22: a flag computed by the test `P` is 1 where `P` holds and 0 elsewhere. -/
theorem toNat_flagByte_decide (P : Prop) [Decidable P] : (flagByte (decide P)).toNat = if P then 1 else 0 := by
  by_cases h : P <;> simp [flagByte, h]

/-- R142: the carry. -/
theorem toNat_flagByte_carryOf (a b : Byte) :
    (flagByte (carryOf a b)).toNat = if a.toNat + b.toNat > 255 then 1 else 0 := toNat_flagByte_decide _

/-! ## What each instruction answers -/

/-- R130. -/
theorem exec_ldImm (x : RegIdx) (nn : Byte) (s : State) : exec (.ldImm x nn) s = .next (s.advance.setReg x nn) := rfl

/-- R131. -/
theorem exec_addImm (x : RegIdx) (nn : Byte) (s : State) :
    exec (.addImm x nn) s = .next (s.advance.setReg x (s.reg x + nn)) := rfl

/-- R132. -/
theorem exec_ldReg (x y : RegIdx) (s : State) : exec (.ldReg x y) s = .next (s.advance.setReg x (s.reg y)) := rfl

/-- R136. -/
theorem exec_addReg (x y : RegIdx) (s : State) :
    exec (.addReg x y) s =
      .next (s.advance.setRegFlag x (s.reg x + s.reg y) (carryOf (s.reg x) (s.reg y))) := rfl

/-! ## The obligations -/

/-- Settles O26: the register write stores NN, and its frame is that of every register write. -/
theorem loadImmediateWritesTheRegister : Obligations.LoadImmediateWritesTheRegister := by
  intro x nn s
  exact ⟨_, exec_ldImm x nn s, State.reg_setReg_same _ x nn, writesReg_advance_setReg s x nn⟩

/-- Settles O27: the sum of two bytes is the sum modulo 256, and the only register written is the destination. -/
theorem addImmediateWrapsWithoutFlag : Obligations.AddImmediateWrapsWithoutFlag := by
  intro x nn s
  refine ⟨_, exec_addImm x nn s, ?_, writesReg_advance_setReg s x _⟩
  rw [State.reg_setReg_same, BitVec.toNat_add]

/-- Settles O28: the register write stores the old V[Y], and its frame is that of every register write. -/
theorem copyWritesTheRegister : Obligations.CopyWritesTheRegister := by
  intro x y s
  exact ⟨_, exec_ldReg x y s, State.reg_setReg_same _ x _, writesReg_advance_setReg s x _⟩

/-- Settles O30: the flag-last law R143 on the sum modulo 256 and the carry of the old operands. -/
theorem addSetsTheCarryLast : Obligations.AddSetsTheCarryLast := by
  intro x y s
  exact ⟨_, exec_addReg x y s, writesRegAndFlag_advance_setRegFlag s x
    (BitVec.toNat_add _ _) (toNat_flagByte_carryOf _ _)⟩

end Sys2Proof.Proofs
end

section
/-! SUPPORT. Index register and memory transfer (43_memory_index.md): the state a store instruction answers, what a run
of loaded registers reads, what a fault keeps, and what LD_I, LD_B, LD_MEM_VX and LD_VX_MEM answer on either side of the
bound of memory. -/

namespace Sys2Proof.Proofs

open Sys2Proof.Machine Sys2Proof.Claims

/-! ## What a fault keeps -/

theorem regsSame_raise (s : State) (k : FaultKind) (w : Option Word) : RegsSame s (s.raise k w) := fun _ => rfl

/-- R206: only `run` and the record differ. -/
theorem othersSame_raise (s : State) (k : FaultKind) (w : Option Word) :
    OthersSame s { s.raise k w with run := s.run, fault := s.fault } := by
  constructor <;> intros <;> rfl

/-- R206, in the words of the statements: an instruction that faults leaves its kind in the record, and no write of
the step survives. -/
theorem exists_raiseFault (k : FaultKind) (i : Instr) (s : State) :
    ∃ t, raiseFault k i s = .next t ∧ t.fault.map FaultRecord.kind = some k ∧
      RegsSame s t ∧ OthersSame s { t with run := s.run, fault := s.fault } :=
  ⟨s.raise k _, rfl, rfl, regsSame_raise s k _, othersSame_raise s k _⟩

/-! ## A run of bytes stored from `I` on -/

/-- R153, R154: the answer of an instruction that stores `bs` at `I`, `I + 1`, ... and moves on. -/
def storeRun (s : State) (bs : List Byte) : State :=
  { s with pc := s.pc + 2, mem := Memory.writeAll s.cfg.fontBase s.mem s.indexAddr bs }

theorem storeRun_pc (s : State) (bs : List Byte) : (storeRun s bs).pc = s.pc + 2 := rfl

theorem regsSame_storeRun (s : State) (bs : List Byte) : RegsSame s (storeRun s bs) := fun _ => rfl

/-- A store moves on and writes memory, and nothing else. -/
theorem othersSame_storeRun (s : State) (bs : List Byte) : OthersSame s { storeRun s bs with mem := s.mem } :=
  othersSame_setPc s (s.pc + 2)

theorem byteAt_storeRun (s : State) (bs : List Byte) (a : Nat) :
    (storeRun s bs).byteAt a =
      if s.indexAddr ≤ a then (bs[a - s.indexAddr]?).getD (s.byteAt a) else s.byteAt a :=
  State.byteAt_writeAll s s.indexAddr a bs

theorem byteAt_storeRun_of_getElem? (s : State) {bs : List Byte} {k : Nat} {b : Byte} (h : bs[k]? = some b) :
    (storeRun s bs).byteAt (s.indexAddr + k) = b := by
  rw [byteAt_storeRun, if_pos (Nat.le_add_right _ _), Nat.add_sub_cancel_left, h, Option.getD_some]

theorem byteAt_storeRun_outside (s : State) {bs : List Byte} {a : Nat}
    (h : a < s.indexAddr ∨ s.indexAddr + bs.length ≤ a) : (storeRun s bs).byteAt a = s.byteAt a := by
  rw [byteAt_storeRun]
  split
  · rw [List.getElem?_eq_none (by omega), Option.getD_none]
  · rfl

/-! ## A run of registers loaded -/

/-- R155: the first `n` registers take the bytes loaded; the others keep their values. -/
theorem reg_loadRegs_range (s : State) (f : Nat → Byte) (n : Nat) (r : RegIdx) :
    (s.loadRegs ((List.range n).map f)).reg r = if r.toNat < n then f r.toNat else s.reg r := by
  rw [State.reg_loadRegs, List.getElem?_map]
  split
  · next h => rw [List.getElem?_range h, Option.map_some, Option.getD_some]
  · next h => rw [List.getElem?_eq_none (by simpa using h), Option.map_none, Option.getD_none]

theorem othersSame_loadRegs (s : State) (bs : List Byte) : OthersSame s (s.loadRegs bs) := by
  constructor <;> simp

/-! ## What each instruction answers -/

/-- R150. -/
theorem exec_ldI (nnn : Addr12) (s : State) : exec (.ldI nnn) s = .next (s.advance.setI (zextAddr nnn)) := rfl

/-- R153. -/
theorem exec_ldB_of_fits {x : RegIdx} {s : State} (h : s.indexAddr + 2 < 4096) :
    exec (.ldB x) s = .next (storeRun s (bcdDigits (s.reg x))) := by
  obtain ⟨hout, -⟩ | ⟨-, hstore⟩ := execLdB_cases x s
  · rw [memSize_eq] at hout; omega
  · exact hstore

/-- R153. -/
theorem exec_ldB_of_exceeds {x : RegIdx} {s : State} (h : s.indexAddr + 2 ≥ 4096) :
    exec (.ldB x) s = raiseFault .memOutOfBounds (.ldB x) s := by
  obtain ⟨-, hfault⟩ | ⟨hin, -⟩ := execLdB_cases x s
  · exact hfault
  · rw [memSize_eq] at hin; omega

/-- R154. -/
theorem exec_ldMemVx_of_fits {x : RegIdx} {s : State} (h : s.indexAddr + x.toNat < 4096) :
    exec (.ldMemVx x) s = .next (storeRun s (s.regRun x)) := by
  obtain ⟨hout, -⟩ | ⟨-, hstore⟩ := execLdMemVx_cases x s
  · rw [memSize_eq] at hout; omega
  · exact hstore

/-- R154. -/
theorem exec_ldMemVx_of_exceeds {x : RegIdx} {s : State} (h : s.indexAddr + x.toNat ≥ 4096) :
    exec (.ldMemVx x) s = raiseFault .memOutOfBounds (.ldMemVx x) s := by
  obtain ⟨-, hfault⟩ | ⟨hin, -⟩ := execLdMemVx_cases x s
  · exact hfault
  · rw [memSize_eq] at hin; omega

/-- R155. -/
theorem exec_ldVxMem_of_fits {x : RegIdx} {s : State} (h : s.indexAddr + x.toNat < 4096) :
    exec (.ldVxMem x) s =
      .next (s.advance.loadRegs ((List.range (x.toNat + 1)).map fun k => s.byteAt (s.indexAddr + k))) := by
  obtain ⟨hout, -⟩ | ⟨-, hload⟩ := execLdVxMem_cases x s
  · rw [memSize_eq] at hout; omega
  · exact hload

/-- R155. -/
theorem exec_ldVxMem_of_exceeds {x : RegIdx} {s : State} (h : s.indexAddr + x.toNat ≥ 4096) :
    exec (.ldVxMem x) s = raiseFault .memOutOfBounds (.ldVxMem x) s := by
  obtain ⟨-, hfault⟩ | ⟨hin, -⟩ := execLdVxMem_cases x s
  · exact hfault
  · rw [memSize_eq] at hin; omega

/-! ## The decimal digits of a byte (R153) -/

theorem getElem?_bcdDigits_hundreds (v : Byte) : (bcdDigits v)[0]? = some (BitVec.ofNat 8 (v.toNat / 100)) := rfl

theorem getElem?_bcdDigits_tens (v : Byte) : (bcdDigits v)[1]? = some (BitVec.ofNat 8 (v.toNat / 10 % 10)) := rfl

theorem getElem?_bcdDigits_ones (v : Byte) : (bcdDigits v)[2]? = some (BitVec.ofNat 8 (v.toNat % 10)) := rfl

/-- A digit stored in the run is read back as the number it is. -/
theorem toNat_byteAt_storeRun (s : State) {bs : List Byte} {k n : Nat} (h : bs[k]? = some (BitVec.ofNat 8 n))
    (hn : n < 256) : ((storeRun s bs).byteAt (s.indexAddr + k)).toNat = n := by
  rw [byteAt_storeRun_of_getElem? s h, BitVec.toNat_ofNat, Nat.mod_eq_of_lt hn]

/-! ## The obligations -/

/-- Settles O34: `I` takes the widened NNN, and the rest is the advance of the fetch. -/
theorem loadIndexWritesI : Obligations.LoadIndexWritesI := by
  intro nnn s
  exact ⟨_, exec_ldI nnn s, toNat_zextAddr nnn, rfl, regsSame_setPc s (s.pc + 2), othersSame_setPc s (s.pc + 2)⟩

/-- Settles O37: inside memory the run stored is the three digits, each below 256; beyond it the step is the fault. -/
theorem bcdStoresThreeDigitsOrNone : Obligations.BcdStoresThreeDigitsOrNone := by
  intro x s
  refine ⟨fun hfits => ?_, fun hexceeds => ?_⟩
  · have hv := (s.reg x).isLt
    refine ⟨_, exec_ldB_of_fits hfits,
      toNat_byteAt_storeRun s (getElem?_bcdDigits_hundreds _) (by omega),
      toNat_byteAt_storeRun s (getElem?_bcdDigits_tens _) (by omega),
      toNat_byteAt_storeRun s (getElem?_bcdDigits_ones _) (by omega),
      fun a ha => byteAt_storeRun_outside s ?_,
      storeRun_pc s _, regsSame_storeRun s _, othersSame_storeRun s _⟩
    rw [length_bcdDigits]
    omega
  · rw [exec_ldB_of_exceeds hexceeds]
    exact exists_raiseFault _ _ s

/-- Settles O38: inside memory the run stored is V0 to VX, X + 1 bytes; beyond it the step is the fault. -/
theorem registerStoreWritesTheRunOrNothing : Obligations.RegisterStoreWritesTheRunOrNothing := by
  intro x s
  refine ⟨fun hfits => ?_, fun hexceeds => ?_⟩
  · refine ⟨_, exec_ldMemVx_of_fits hfits,
      fun r hr => byteAt_storeRun_of_getElem? s (by rw [State.getElem?_regRun, if_pos hr]),
      fun a ha => byteAt_storeRun_outside s ?_,
      storeRun_pc s _, regsSame_storeRun s _, othersSame_storeRun s _⟩
    rw [State.length_regRun]
    omega
  · rw [exec_ldMemVx_of_exceeds hexceeds]
    exact exists_raiseFault _ _ s

/-- Settles O39: inside memory V0 to VX take the bytes of the run and the registers above X stay; beyond it the step is
the fault. -/
theorem registerLoadReadsTheRunOrNothing : Obligations.RegisterLoadReadsTheRunOrNothing := by
  intro x s
  refine ⟨fun hfits => ?_, fun hexceeds => ?_⟩
  · refine ⟨_, exec_ldVxMem_of_fits hfits, fun r hr => ?_, fun r hr => ?_, rfl,
      othersSame_trans (othersSame_setPc s _) (othersSame_loadRegs _ _)⟩
    · rw [reg_loadRegs_range, if_pos (Nat.lt_succ_of_le hr)]
    · rw [reg_loadRegs_range, if_neg (by omega), State.advance_reg]
  · rw [exec_ldVxMem_of_exceeds hexceeds]
    exact exists_raiseFault _ _ s

end Sys2Proof.Proofs
end

section
/-! SUPPORT. Display (44_display.md): what replacing the framebuffer leaves as before, and what CLS answers. -/

namespace Sys2Proof.Proofs

open Sys2Proof.Machine Sys2Proof.Claims

/-! ## The frame of a write to the framebuffer -/

theorem regsSame_setFb (s : State) (f : Framebuffer) : RegsSame s (s.setFb f) := State.setFb_reg s f

theorem othersSame_setFb (s : State) (f : Framebuffer) : OthersSame s { s.setFb f with fb := s.fb } := by
  constructor <;> intros <;> rfl

/-! ## What each instruction answers -/

/-- R170. -/
theorem exec_cls (s : State) : exec .cls s = .next (s.advance.setFb Framebuffer.clear) := rfl

/-! ## The obligations -/

/-- Settles O42: the framebuffer becomes the clear one, in which no pixel is on, and the rest is the advance of the
fetch. -/
theorem clearTurnsEveryPixelOff : Obligations.ClearTurnsEveryPixelOff := by
  intro s
  exact ⟨_, exec_cls s, Framebuffer.pixel_clear, rfl, regsSame_setFb s.advance _,
    othersSame_trans (othersSame_setPc s (s.pc + 2)) (othersSame_setFb s.advance _)⟩

end Sys2Proof.Proofs
end

section
/-! SUPPORT. Timers (45_timers_keys.md): what setting a timer leaves as before, when a countdown ends, and what
LD_VX_DT, LD_DT_VX and LD_ST_VX answer. -/

namespace Sys2Proof.Proofs

open Sys2Proof.Machine Sys2Proof.Claims

/-! ## The frame of a write to a timer -/

theorem othersSame_setDT (s : State) (v : Byte) : OthersSame s { s.setDT v with DT := s.DT } := by
  constructor <;> intros <;> rfl

theorem othersSame_setST (s : State) (v : Byte) : OthersSame s { s.setST v with ST := s.ST } := by
  constructor <;> intros <;> rfl

/-! ## The end of a countdown (R187) -/

/-- A timer is 0 after as many decrements as it held. -/
theorem countDown_iterate_toNat (t : Byte) : countDown^[t.toNat] t = 0 := by
  apply BitVec.eq_of_toNat_eq
  rw [toNat_countDown_iterate, Nat.sub_self]
  rfl

theorem ticks_DT_eq_zero (s : State) : (ticks s.DT.toNat s).DT = 0 := by
  rw [ticks_eq]
  exact countDown_iterate_toNat s.DT

theorem ticks_ST_eq_zero (s : State) : (ticks s.ST.toNat s).ST = 0 := by
  rw [ticks_eq]
  exact countDown_iterate_toNat s.ST

/-- R190: the sound is off once `ST` is 0. -/
theorem soundOn_eq_false_of_ST {s : State} (h : s.ST = 0) : s.soundOn = false := by
  rw [State.soundOn, h]
  rfl

/-! ## What each instruction answers -/

/-- R180. -/
theorem exec_ldVxDt (x : RegIdx) (s : State) : exec (.ldVxDt x) s = .next (s.advance.setReg x s.DT) := rfl

/-- R185. -/
theorem exec_ldDtVx (x : RegIdx) (s : State) : exec (.ldDtVx x) s = .next (s.advance.setDT (s.reg x)) := rfl

/-- R186. -/
theorem exec_ldStVx (x : RegIdx) (s : State) : exec (.ldStVx x) s = .next (s.advance.setST (s.reg x)) := rfl

/-! ## The obligations -/

/-- Settles O46: the register write stores the `DT` of this step, and its frame is that of every register write. -/
theorem readDelayTimerWritesTheRegister : Obligations.ReadDelayTimerWritesTheRegister := by
  intro x s
  exact ⟨_, exec_ldVxDt x s, State.reg_setReg_same _ x _, writesReg_advance_setReg s x _⟩

/-- Settles O47: `DT` takes V[X], the rest is the advance of the fetch, and V[X] ticks count that value down to 0. -/
theorem setDelayTimerWritesDT : Obligations.SetDelayTimerWritesDT := by
  intro x s
  exact ⟨_, exec_ldDtVx x s, State.setDT_DT .., rfl, regsSame_setPc s (s.pc + 2),
    othersSame_trans (othersSame_setPc s (s.pc + 2)) (othersSame_setDT s.advance _),
    ticks_DT_eq_zero (s.advance.setDT (s.reg x))⟩

/-- Settles O48: `ST` takes V[X], the sound cue reads it, the rest is the advance of the fetch, and V[X] ticks count
that value down to 0, where the cue is off. -/
theorem setSoundTimerWritesST : Obligations.SetSoundTimerWritesST := by
  intro x s
  have hzero : (ticks (s.reg x).toNat (s.advance.setST (s.reg x))).ST = 0 :=
    ticks_ST_eq_zero (s.advance.setST (s.reg x))
  exact ⟨_, exec_ldStVx x s, State.setST_ST .., rfl, regsSame_setPc s (s.pc + 2),
    othersSame_trans (othersSame_setPc s (s.pc + 2)) (othersSame_setST s.advance _), rfl,
    hzero, soundOn_eq_false_of_ST hzero⟩

end Sys2Proof.Proofs
end

section
/-! SUPPORT. Encoding (30_encoding.md, 40_fetch_dispatch.md): the decoder inverts the encoder in both directions, which
rows of the opcode map a word selects, and which words are unknown, each family once. -/

namespace Sys2Proof.Proofs

open Sys2Proof.Machine Sys2Proof.Claims

/-! ## The decoder on encoded words (R82, R94) -/

/-- Every field the decoder matches on is the one the encoder wrote. -/
theorem decode_encode (i : Instr) : decode (encode i) = some i := by
  cases i with
  | cls | ret => rfl
  | jp | call | ldI | jpV0 => simp [encode, decode]
  | seImm | sneImm | ldImm | addImm | rnd => simp [encode, decode]
  | seReg | sneReg | drw => simp [encode, decode]
  | ldReg | or | and | xor | addReg | sub | shr | subn | shl => simp [encode, decode, decodeFamily8]
  | skp | sknp => simp [encode, decode, decodeFamilyE]
  | ldVxDt | ldVxK | ldDtVx | ldStVx | addI | ldF | ldB | ldMemVx | ldVxMem => simp [encode, decode, decodeFamilyF]

/-! ## The words of decoded instructions -/

theorem wordA_of_op {w : Word} {op : Nibble} (h : opOf w = op) : wordA op (nnnOf w) = w := h ▸ wordA_fields w

theorem wordRI_of_op {w : Word} {op : Nibble} (h : opOf w = op) : wordRI op (xOf w) (nnOf w) = w := h ▸ wordRI_fields w

theorem wordRI_of_op_nn {w : Word} {op : Nibble} {nn : Byte} (h : opOf w = op) (hnn : nnOf w = nn) :
    wordRI op (xOf w) nn = w := hnn ▸ wordRI_of_op h

theorem wordRR_of_op {w : Word} {op : Nibble} (h : opOf w = op) : wordRR op (xOf w) (yOf w) (nOf w) = w :=
  h ▸ wordRR_fields w

theorem wordRR_of_op_n {w : Word} {op n : Nibble} (h : opOf w = op) (hn : nOf w = n) :
    wordRR op (xOf w) (yOf w) n = w := hn ▸ wordRR_of_op h

theorem encode_of_decodeFamily0 {w : Word} {i : Instr} (h : decodeFamily0 w = some i) : encode i = w := by
  unfold decodeFamily0 at h
  split at h
  · next hw => cases h; exact hw.symm
  · split at h
    · next hw => cases h; exact hw.symm
    · cases h

theorem encode_of_decodeFamily8 {w : Word} {i : Instr} (hop : opOf w = 0x8) (h : decodeFamily8 w = some i) :
    encode i = w := by
  unfold decodeFamily8 at h
  split at h <;> cases h <;> exact wordRR_of_op_n hop ‹_›

theorem encode_of_decodeFamilyE {w : Word} {i : Instr} (hop : opOf w = 0xE) (h : decodeFamilyE w = some i) :
    encode i = w := by
  unfold decodeFamilyE at h
  split at h <;> cases h <;> exact wordRI_of_op_nn hop ‹_›

theorem encode_of_decodeFamilyF {w : Word} {i : Instr} (hop : opOf w = 0xF) (h : decodeFamilyF w = some i) :
    encode i = w := by
  unfold decodeFamilyF at h
  split at h <;> cases h <;> exact wordRI_of_op_nn hop ‹_›

/-- Families 5 and 9 decode only with the low nibble 0 (D12). -/
theorem wordRR_of_op_of_ite {w : Word} {op : Nibble} {i j : Instr} (hop : opOf w = op)
    (hj : encode j = wordRR op (xOf w) (yOf w) 0) (h : (if nOf w = 0x0#4 then some j else none) = some i) :
    encode i = w := by
  split at h
  · next hn => cases h; exact hj.trans (wordRR_of_op_n hop hn)
  · cases h

theorem encode_of_decode {w : Word} {i : Instr} (h : decode w = some i) : encode i = w := by
  unfold decode at h
  split at h
  case h_1 => exact encode_of_decodeFamily0 h
  case h_6 hop | h_10 hop => exact wordRR_of_op_of_ite hop rfl h
  case h_9 hop => exact encode_of_decodeFamily8 hop h
  case h_14 hop => cases h; exact wordRR_of_op hop
  case h_15 hop => exact encode_of_decodeFamilyE hop h
  case h_16 hop => exact encode_of_decodeFamilyF hop h
  case h_17 => cases h
  case h_2 hop | h_3 hop | h_11 hop | h_12 hop => cases h; exact wordA_of_op hop
  case h_4 hop | h_5 hop | h_7 hop | h_8 hop | h_13 hop => cases h; exact wordRI_of_op hop

/-! ## The rows a word selects (R74, R75) -/

/-- R75: every instruction has its row. -/
theorem rowMatch : ∀ i : Instr, Laws.RowMatch.Statement i
  | .cls => Laws.RowMatch.cls
  | .ret => Laws.RowMatch.ret
  | .jp nnn => Laws.RowMatch.jp nnn
  | .call nnn => Laws.RowMatch.call nnn
  | .seImm x nn => Laws.RowMatch.seImm x nn
  | .sneImm x nn => Laws.RowMatch.sneImm x nn
  | .seReg x y => Laws.RowMatch.seReg x y
  | .ldImm x nn => Laws.RowMatch.ldImm x nn
  | .addImm x nn => Laws.RowMatch.addImm x nn
  | .ldReg x y => Laws.RowMatch.ldReg x y
  | .or x y => Laws.RowMatch.or x y
  | .and x y => Laws.RowMatch.and x y
  | .xor x y => Laws.RowMatch.xor x y
  | .addReg x y => Laws.RowMatch.addReg x y
  | .sub x y => Laws.RowMatch.sub x y
  | .shr x y => Laws.RowMatch.shr x y
  | .subn x y => Laws.RowMatch.subn x y
  | .shl x y => Laws.RowMatch.shl x y
  | .sneReg x y => Laws.RowMatch.sneReg x y
  | .ldI nnn => Laws.RowMatch.ldI nnn
  | .jpV0 nnn => Laws.RowMatch.jpV0 nnn
  | .rnd x nn => Laws.RowMatch.rnd x nn
  | .drw x y n => Laws.RowMatch.drw x y n
  | .skp x => Laws.RowMatch.skp x
  | .sknp x => Laws.RowMatch.sknp x
  | .ldVxDt x => Laws.RowMatch.ldVxDt x
  | .ldVxK x => Laws.RowMatch.ldVxK x
  | .ldDtVx x => Laws.RowMatch.ldDtVx x
  | .ldStVx x => Laws.RowMatch.ldStVx x
  | .addI x => Laws.RowMatch.addI x
  | .ldF x => Laws.RowMatch.ldF x
  | .ldB x => Laws.RowMatch.ldB x
  | .ldMemVx x => Laws.RowMatch.ldMemVx x
  | .ldVxMem x => Laws.RowMatch.ldVxMem x

/-- A word that decodes selects the row of its instruction's mnemonic. -/
theorem exists_row_of_decode {w : Word} {i : Instr} (h : decode w = some i) :
    ∃ r ∈ opcodeRows, r.mnemonic = mnemonicOf i ∧ selectsRow w r = true :=
  encode_of_decode h ▸ rowMatch i

/-- The family, and the field below it, of a word that matches a pattern under a mask that keeps them (R74). -/
theorem opOf_of_and {w m p : Word} (hm : opOf m = 15#4) (h : w &&& m = p) : opOf w = opOf p := by
  rw [← h, opOf_and, hm, and_nibbleMask]

theorem nOf_of_and {w m p : Word} (hm : nOf m = 15#4) (h : w &&& m = p) : nOf w = nOf p := by
  rw [← h, nOf_and, hm, and_nibbleMask]

theorem nnOf_of_and {w m p : Word} (hm : nnOf m = 255#8) (h : w &&& m = p) : nnOf w = nnOf p := by
  rw [← h, nnOf_and, hm, and_byteMask]

/-- `w` decodes to an instruction of the row `r`. -/
def DecodesTo (w : Word) (r : OpRow) : Prop := ∃ i, decode w = some i ∧ mnemonicOf i = r.mnemonic

/-- CLS and RET fix the whole word, SE_REG the family and the low nibble, the others the family alone. -/
theorem decodesTo_of_mem_rowsLow {w : Word} {r : OpRow} (hr : r ∈ opcodeRowsLow) (h : w &&& r.mask = r.pattern) :
    DecodesTo w r := by
  simp only [opcodeRowsLow, List.mem_cons, List.not_mem_nil, or_false] at hr
  rcases hr with rfl | rfl | rfl | rfl | rfl | rfl | rfl | rfl | rfl
  case inl | inr.inl => exact ⟨_, congrArg decode (BitVec.and_allOnes.symm.trans h), rfl⟩
  case inr.inr.inr.inr.inr.inr.inl =>
    exact ⟨_, by simp only [decode, opOf_of_and rfl h, nOf_of_and rfl h]; rfl, rfl⟩
  all_goals exact ⟨_, by simp only [decode, opOf_of_and rfl h]; rfl, rfl⟩

theorem decodesTo_of_mem_rows8 {w : Word} {r : OpRow} (hr : r ∈ opcodeRows8) (h : w &&& r.mask = r.pattern) :
    DecodesTo w r := by
  simp only [opcodeRows8, List.mem_cons, List.not_mem_nil, or_false] at hr
  rcases hr with rfl | rfl | rfl | rfl | rfl | rfl | rfl | rfl | rfl
  all_goals exact ⟨_, by simp only [decode, decodeFamily8, opOf_of_and rfl h, nOf_of_and rfl h]; rfl, rfl⟩

theorem decodesTo_of_mem_rowsHigh {w : Word} {r : OpRow} (hr : r ∈ opcodeRowsHigh) (h : w &&& r.mask = r.pattern) :
    DecodesTo w r := by
  simp only [opcodeRowsHigh, List.mem_cons, List.not_mem_nil, or_false] at hr
  rcases hr with rfl | rfl | rfl | rfl | rfl | rfl | rfl
  · exact ⟨_, by simp only [decode, opOf_of_and rfl h, nOf_of_and rfl h]; rfl, rfl⟩
  iterate 4
    · exact ⟨_, by simp only [decode, opOf_of_and rfl h]; rfl, rfl⟩
  iterate 2
    · exact ⟨_, by simp only [decode, decodeFamilyE, opOf_of_and rfl h, nnOf_of_and rfl h]; rfl, rfl⟩

theorem decodesTo_of_mem_rowsF {w : Word} {r : OpRow} (hr : r ∈ opcodeRowsF) (h : w &&& r.mask = r.pattern) :
    DecodesTo w r := by
  simp only [opcodeRowsF, List.mem_cons, List.not_mem_nil, or_false] at hr
  rcases hr with rfl | rfl | rfl | rfl | rfl | rfl | rfl | rfl | rfl
  all_goals exact ⟨_, by simp only [decode, decodeFamilyF, opOf_of_and rfl h, nnOf_of_and rfl h]; rfl, rfl⟩

theorem decodesTo_of_selectsRow {w : Word} {r : OpRow} (hr : r ∈ opcodeRows) (h : selectsRow w r = true) :
    DecodesTo w r := by
  have hand : w &&& r.mask = r.pattern := beq_iff_eq.1 h
  simp only [opcodeRows, List.mem_append] at hr
  obtain ((hr | hr) | hr) | hr := hr
  · exact decodesTo_of_mem_rowsLow hr hand
  · exact decodesTo_of_mem_rows8 hr hand
  · exact decodesTo_of_mem_rowsHigh hr hand
  · exact decodesTo_of_mem_rowsF hr hand

/-- R75: a row is named by its mnemonic. -/
theorem eq_of_mnemonic_eq {r q : OpRow} (hr : r ∈ opcodeRows) (hq : q ∈ opcodeRows) (h : r.mnemonic = q.mnemonic) :
    r = q := by
  have hn : (opcodeRows.map OpRow.mnemonic).Nodup := by decide
  exact List.inj_on_of_nodup_map hn hr hq h

/-! ## The unknown words (R77) -/

theorem mem_nibbles (b : Nibble) :
    b ∈ [0#4, 1#4, 2#4, 3#4, 4#4, 5#4, 6#4, 7#4, 8#4, 9#4, 10#4, 11#4, 12#4, 13#4, 14#4, 15#4] := by
  revert b
  decide

theorem family_of_op {w : Word} {op : Nibble} (h : opOf w = op) : w.toNat / 4096 = op.toNat := by
  rw [← toNat_opOf, h]

theorem nOf_eq_zero (w : Word) : nOf w = 0#4 ↔ w.toNat % 16 = 0 := by
  rw [← BitVec.toNat_inj, toNat_nOf, BitVec.toNat_zero]

theorem decodeFamily0_eq_none (w : Word) : decodeFamily0 w = none ↔ w.toNat ≠ 0x00E0 ∧ w.toNat ≠ 0x00EE := by
  unfold decodeFamily0
  split
  · next h => simp [h]
  · split
    · next h => simp [h]
    · next h1 h2 =>
      simp only [← BitVec.toNat_inj, BitVec.reduceToNat] at h1 h2
      exact iff_of_true rfl ⟨h1, h2⟩

theorem decodeFamily8_eq_none (w : Word) :
    decodeFamily8 w = none ↔ w.toNat % 16 ∈ [0x8, 0x9, 0xA, 0xB, 0xC, 0xD, 0xF] := by
  have hmatched : decodeFamily8 w = none ↔ (nOf w).toNat ∉ [0x0, 0x1, 0x2, 0x3, 0x4, 0x5, 0x6, 0x7, 0xE] := by
    unfold decodeFamily8
    split <;> simp_all [← BitVec.toNat_inj]
  rw [hmatched, toNat_nOf]
  simp only [List.mem_cons, List.not_mem_nil, or_false]
  omega

theorem decodeFamilyE_eq_none (w : Word) : decodeFamilyE w = none ↔ w.toNat % 256 ∉ [0x9E, 0xA1] := by
  rw [← toNat_nnOf]
  unfold decodeFamilyE
  split <;> simp_all [← BitVec.toNat_inj]

theorem decodeFamilyF_eq_none (w : Word) :
    decodeFamilyF w = none ↔ w.toNat % 256 ∉ [0x07, 0x0A, 0x15, 0x18, 0x1E, 0x29, 0x33, 0x55, 0x65] := by
  rw [← toNat_nnOf]
  unfold decodeFamilyF
  split <;> simp_all [← BitVec.toNat_inj]

/-! ## The obligations -/

/-- Settles O2: the decoder inverts the encoder, and the two bytes of a word spell it. -/
theorem decodeOfEncodeIsTheInstruction : Obligations.DecodeOfEncodeIsTheInstruction := by
  intro i rest
  refine ⟨decode_encode i, ?_⟩
  simp only [encodeBytes, List.cons_append, List.nil_append, decodeBytes, wordOfBytes_high_low, decode_encode]

/-- Settles O3: each arm of the decoder reads fields that spell the word. -/
theorem encodeOfDecodeIsTheWord : Obligations.EncodeOfDecodeIsTheWord := fun _ _ h => encode_of_decode h

/-- Settles O4: a decoded word selects its instruction's row, and a word that selects a row decodes to it. -/
theorem decodeFollowsTheOpcodeMap : Obligations.DecodeFollowsTheOpcodeMap := by
  intro w
  refine ⟨fun i h => exists_row_of_decode h, fun hnone r hr => ?_, fun hall => ?_⟩
  · rw [← Bool.not_eq_true]
    intro hsel
    obtain ⟨i, hi, -⟩ := decodesTo_of_selectsRow hr hsel
    simp [hnone] at hi
  · cases hd : decode w with
    | none => rfl
    | some i =>
      obtain ⟨r, hr, -, hsel⟩ := exists_row_of_decode hd
      simp [hall r hr] at hsel

/-- Settles O5: two rows a word selects carry the mnemonic of the one instruction it decodes to. -/
theorem opcodeRowsAreDisjoint : Obligations.OpcodeRowsAreDisjoint := by
  intro w r q hr hq hsr hsq
  obtain ⟨i, hi, hir⟩ := decodesTo_of_selectsRow hr hsr
  obtain ⟨j, hj, hjq⟩ := decodesTo_of_selectsRow hq hsq
  have hij : i = j := Option.some.inj (hi.symm.trans hj)
  exact eq_of_mnemonic_eq hr hq (by rw [← hir, ← hjq, hij])

/-- Settles O6: the family is the leading nibble, and below it each family's own arm says what is left out. -/
theorem unknownWordsWrittenOut : Obligations.UnknownWordsWrittenOut := by
  intro w
  unfold decode
  split
  case h_1 h => simp [family_of_op h, decodeFamily0_eq_none]
  case h_6 h | h_10 h => simp [family_of_op h, nOf_eq_zero]
  case h_9 h => simp [family_of_op h, decodeFamily8_eq_none]
  case h_15 h => simp [family_of_op h, decodeFamilyE_eq_none]
  case h_16 h => simp [family_of_op h, decodeFamilyF_eq_none]
  -- no arm is left: the sixteen families are all the nibbles there are
  case h_17 =>
    have hop := mem_nibbles (opOf w)
    simp_all
  all_goals next h => simp [family_of_op h]

/-- Settles O1: the decoder run on each word. -/
theorem wordsDecodeAsTheVectorsSay : Obligations.WordsDecodeAsTheVectorsSay := by
  unfold Obligations.WordsDecodeAsTheVectorsSay
  decide

end Sys2Proof.Proofs
end

section
/-! SUPPORT. Every instruction at once: what each of the 34 answers where the table of faults (60_exceptions.md R200)
raises nothing, and from it the frame of each item of the state (10_state.md R20). -/

namespace Sys2Proof.Proofs

open Sys2Proof.Machine Sys2Proof.Claims

/-! ## The effect of an instruction -/

/-- What the instruction `i` makes of the state before the step where it raises no fault; tied to the model by
`exec_of_noFault`. -/
def effect (i : Instr) (s : State) : State :=
  match i with
  | .cls => s.advance.setFb Framebuffer.clear
  | .ret => s.advance.pop.setPc s.stackTop
  | .jp nnn => s.setPc (zextAddr nnn)
  | .call nnn => (s.advance.push (s.pc + 2)).setPc (zextAddr nnn)
  | .seImm x nn => s.setPc (if s.reg x == nn then s.pc + 4 else s.pc + 2)
  | .sneImm x nn => s.setPc (if s.reg x != nn then s.pc + 4 else s.pc + 2)
  | .seReg x y => s.setPc (if s.reg x == s.reg y then s.pc + 4 else s.pc + 2)
  | .sneReg x y => s.setPc (if s.reg x != s.reg y then s.pc + 4 else s.pc + 2)
  | .ldImm x nn => s.advance.setReg x nn
  | .addImm x nn => s.advance.setReg x (s.reg x + nn)
  | .ldReg x y => s.advance.setReg x (s.reg y)
  | .or x y => s.advance.setReg x (s.reg x ||| s.reg y)
  | .and x y => s.advance.setReg x (s.reg x &&& s.reg y)
  | .xor x y => s.advance.setReg x (s.reg x ^^^ s.reg y)
  | .addReg x y => s.advance.setRegFlag x (s.reg x + s.reg y) (carryOf (s.reg x) (s.reg y))
  | .sub x y => s.advance.setRegFlag x (s.reg x - s.reg y) (notBorrow (s.reg x) (s.reg y))
  | .shr x _ => s.advance.setRegFlag x (s.reg x >>> 1) (shrOut (s.reg x))
  | .subn x y => s.advance.setRegFlag x (s.reg y - s.reg x) (notBorrow (s.reg y) (s.reg x))
  | .shl x _ => s.advance.setRegFlag x (s.reg x <<< 1) (shlOut (s.reg x))
  | .ldI nnn => s.advance.setI (zextAddr nnn)
  | .jpV0 nnn => s.setPc (s.offsetTarget nnn)
  | .rnd x nn => s.advance.drawRand.setReg x (s.randByte &&& nn)
  | .drw x y n =>
    (s.advance.setFb (drawSprite ((s.reg x).toNat % 64) ((s.reg y).toNat % 32) (s.spriteBytes n) s.fb).1).setReg
      flagReg (flagByte (drawSprite ((s.reg x).toNat % 64) ((s.reg y).toNat % 32) (s.spriteBytes n) s.fb).2)
  | .skp x => s.setPc (if s.keyDown (s.regNibble x) then s.pc + 4 else s.pc + 2)
  | .sknp x => s.setPc (if !s.keyDown (s.regNibble x) then s.pc + 4 else s.pc + 2)
  | .ldVxDt x => s.advance.setReg x s.DT
  | .ldVxK x => s.enterWait x
  | .ldDtVx x => s.advance.setDT (s.reg x)
  | .ldStVx x => s.advance.setST (s.reg x)
  | .addI x => s.advance.setI (s.I + zextByte (s.reg x))
  | .ldF x => s.advance.setI (s.glyphAddr (s.regNibble x))
  | .ldB x => storeRun s (bcdDigits (s.reg x))
  | .ldMemVx x => storeRun s (s.regRun x)
  | .ldVxMem x => s.advance.loadRegs ((List.range (x.toNat + 1)).map fun k => s.byteAt (s.indexAddr + k))

/-- A fault test of the table that answers a kind was met, and the kind is the one it names. -/
theorem of_faultTest_eq_some {P : Prop} [Decidable P] {k k' : FaultKind}
    (h : (if P then some k else none) = some k') : P ∧ k = k' := by
  split at h
  · next hP => exact ⟨hP, Option.some.inj h⟩
  · cases h

theorem not_of_faultTest_eq_none {P : Prop} [Decidable P] {k : FaultKind}
    (h : (if P then some k else none) = none) : ¬ P := by
  intro hP
  rw [if_pos hP] at h
  cases h

/-- R200, R206: where the table raises a fault, the instruction answers it. -/
theorem exec_of_fault {i : Instr} {s : State} {k : FaultKind} (h : faultKindOf i s = some k) :
    exec i s = raiseFault k i s := by
  cases i with
  | call nnn =>
    obtain ⟨hfull, rfl⟩ := of_faultTest_eq_some h
    exact if_pos hfull
  | ret =>
    obtain ⟨hempty, rfl⟩ := of_faultTest_eq_some h
    exact if_pos hempty
  | drw x y n =>
    obtain ⟨⟨hn, hout⟩, rfl⟩ := of_faultTest_eq_some h
    obtain ⟨-, -, hfault⟩ | ⟨hin, -⟩ := execDrw_cases x y n s
    · exact hfault
    · rw [memSize_eq] at hin; omega
  | ldB x =>
    obtain ⟨hout, rfl⟩ := of_faultTest_eq_some h
    exact exec_ldB_of_exceeds hout
  | ldMemVx x =>
    obtain ⟨hout, rfl⟩ := of_faultTest_eq_some h
    exact exec_ldMemVx_of_exceeds hout
  | ldVxMem x =>
    obtain ⟨hout, rfl⟩ := of_faultTest_eq_some h
    exact exec_ldVxMem_of_exceeds hout
  | _ => cases h

/-- Where the table raises none, the instruction answers its effect. -/
theorem exec_of_noFault {i : Instr} {s : State} (h : faultKindOf i s = none) : exec i s = .next (effect i s) := by
  cases i with
  | call nnn => exact if_neg (not_of_faultTest_eq_none h)
  | ret => exact if_neg (not_of_faultTest_eq_none h)
  | drw x y n =>
    have hfits := not_of_faultTest_eq_none h
    obtain ⟨hn, hout, -⟩ | ⟨-, hdraw⟩ := execDrw_cases x y n s
    · rw [memSize_eq] at hout; omega
    · exact hdraw
  | ldB x => exact exec_ldB_of_fits (Nat.not_le.1 (not_of_faultTest_eq_none h))
  | ldMemVx x => exact exec_ldMemVx_of_fits (Nat.not_le.1 (not_of_faultTest_eq_none h))
  | ldVxMem x => exact exec_ldVxMem_of_fits (Nat.not_le.1 (not_of_faultTest_eq_none h))
  | seImm | sneImm | seReg | sneReg | skp | sknp => exact congrArg _ (State.skipIf_eq s _)
  | _ => rfl

/-- R200, R206: the two answers of an instruction. -/
theorem exec_cases (i : Instr) (s : State) :
    (∃ k, faultKindOf i s = some k ∧ exec i s = .next (s.raise k (some (encode i)))) ∨
    (faultKindOf i s = none ∧ exec i s = .next (effect i s)) := by
  cases h : faultKindOf i s with
  | some k => exact .inl ⟨k, rfl, exec_of_fault h⟩
  | none => exact .inr ⟨rfl, exec_of_noFault h⟩

/-! ## The frame of the effect, item by item (R20) -/

theorem effect_mem {i : Instr} (h : ∀ x, i ≠ .ldB x ∧ i ≠ .ldMemVx x) (s : State) : (effect i s).mem = s.mem := by
  cases i with
  | ldB x => exact absurd rfl (h x).1
  | ldMemVx x => exact absurd rfl (h x).2
  | ldVxMem => exact State.loadRegs_mem _ _
  | _ => rfl

theorem effect_I {i : Instr} (h : ∀ x nnn, i ≠ .ldI nnn ∧ i ≠ .addI x ∧ i ≠ .ldF x) (s : State) :
    (effect i s).I = s.I := by
  cases i with
  | ldI nnn => exact absurd rfl (h 0 nnn).1
  | addI x => exact absurd rfl (h x 0).2.1
  | ldF x => exact absurd rfl (h x 0).2.2
  | ldVxMem => exact State.loadRegs_I _ _
  | _ => rfl

theorem effect_stack {i : Instr} (h : ∀ nnn, i ≠ .call nnn) (s : State) : (effect i s).stack = s.stack := by
  cases i with
  | call nnn => exact absurd rfl (h nnn)
  | ldVxMem => exact State.loadRegs_stack _ _
  | _ => rfl

theorem effect_sp {i : Instr} (h : ∀ nnn, i ≠ .call nnn ∧ i ≠ .ret) (s : State) : (effect i s).sp = s.sp := by
  cases i with
  | call nnn => exact absurd rfl (h nnn).1
  | ret => exact absurd rfl (h 0).2
  | ldVxMem => exact State.loadRegs_sp _ _
  | _ => rfl

theorem effect_fb {i : Instr} (h : ∀ x y n, i ≠ .cls ∧ i ≠ .drw x y n) (s : State) : (effect i s).fb = s.fb := by
  cases i with
  | cls => exact absurd rfl (h 0 0 0).1
  | drw x y n => exact absurd rfl (h x y n).2
  | ldVxMem => exact State.loadRegs_fb _ _
  | _ => rfl

theorem effect_DT {i : Instr} (h : ∀ x, i ≠ .ldDtVx x) (s : State) : (effect i s).DT = s.DT := by
  cases i with
  | ldDtVx x => exact absurd rfl (h x)
  | ldVxMem => exact State.loadRegs_DT _ _
  | _ => rfl

theorem effect_ST {i : Instr} (h : ∀ x, i ≠ .ldStVx x) (s : State) : (effect i s).ST = s.ST := by
  cases i with
  | ldStVx x => exact absurd rfl (h x)
  | ldVxMem => exact State.loadRegs_ST _ _
  | _ => rfl

theorem effect_kprev {i : Instr} (h : ∀ x, i ≠ .ldVxK x) (s : State) : (effect i s).kprev = s.kprev := by
  cases i with
  | ldVxK x => exact absurd rfl (h x)
  | ldVxMem => exact State.loadRegs_kprev _ _
  | _ => rfl

theorem effect_run {i : Instr} (h : ∀ x, i ≠ .ldVxK x) (s : State) : (effect i s).run = s.run := by
  cases i with
  | ldVxK x => exact absurd rfl (h x)
  | ldVxMem => exact State.loadRegs_run _ _
  | _ => rfl

theorem effect_io {i : Instr} (h : ∀ x nn, i ≠ .rnd x nn) (s : State) : (effect i s).io = s.io := by
  cases i with
  | rnd x nn => exact absurd rfl (h x nn)
  | ldVxMem => exact State.loadRegs_io _ _
  | _ => rfl

@[simp] theorem effect_fault (i : Instr) (s : State) : (effect i s).fault = s.fault := by
  cases i with
  | ldVxMem => exact State.loadRegs_fault _ _
  | _ => rfl

@[simp] theorem effect_tacc (i : Instr) (s : State) : (effect i s).tacc = s.tacc := by
  cases i with
  | ldVxMem => exact State.loadRegs_tacc _ _
  | _ => rfl

@[simp] theorem effect_cfg (i : Instr) (s : State) : (effect i s).cfg = s.cfg := by
  cases i with
  | ldVxMem => exact State.loadRegs_cfg _ _
  | _ => rfl

theorem effect_byteAt {i : Instr} (h : ∀ x, i ≠ .ldB x ∧ i ≠ .ldMemVx x) (s : State) (a : Nat) :
    (effect i s).byteAt a = s.byteAt a := by
  rw [State.byteAt, effect_mem h, effect_cfg, State.byteAt]

/-- R22: a register that is neither the destination nor VF passes a flag-setting write. -/
theorem reg_setRegFlag_other {s : State} {x r : RegIdx} {v : Byte} {f : Bool} (h : ¬ (r = x ∨ r = 15)) :
    (s.setRegFlag x v f).reg r = s.reg r := by
  rw [State.reg_setRegFlag, flagReg_eq, if_neg fun h15 => h (.inr h15), if_neg fun hx => h (.inl hx)]

theorem effect_reg {i : Instr} {r : RegIdx} (h : ¬ mayWriteReg i r) (s : State) : (effect i s).reg r = s.reg r := by
  cases i with
  | ldImm | addImm | ldReg | or | and | xor | ldVxDt | rnd => exact State.reg_setReg_other _ _ r _ h
  | addReg | sub | shr | subn | shl => exact reg_setRegFlag_other h
  | drw => exact State.reg_setReg_other _ flagReg r _ h
  | ldVxMem x => exact (reg_loadRegs_range _ _ _ r).trans (if_neg fun hlt => h (Nat.lt_succ_iff.1 hlt))
  | _ => rfl

/-! ## The flag (R22) -/

theorem flagByte_eq (b : Bool) : flagByte b = 0 ∨ flagByte b = 1 := by
  cases b
  · exact .inl rfl
  · exact .inr rfl

theorem effect_reg_flag {i : Instr} (h : setsFlag i) (s : State) : ∃ b, (effect i s).reg 15 = flagByte b := by
  cases i with
  | addReg | sub | shr | subn | shl | drw => exact ⟨_, State.reg_setReg_same _ flagReg _⟩
  | _ => exact h.elim

/-! ## The obligations -/

/-- Settles O16: where the table raises a fault the step is that fault, and elsewhere the effect, which writes no
record. -/
theorem instructionFaultsAreExactAndPrecise : Obligations.InstructionFaultsAreExactAndPrecise := by
  intro i s
  refine ⟨fun k hk => exec_of_fault hk, fun hnone => ⟨effect i s, exec_of_noFault hnone, effect_fault i s, ?_⟩⟩
  by_cases hwait : ∃ x, i = .ldVxK x
  · exact .inr hwait
  · exact .inl (effect_run (fun x hx => hwait ⟨x, hx⟩) s)

/-- Settles O17: a fault writes none of the items, and the effect only those of the instruction's own rows. -/
theorem onlyTheListedInstructionsWriteEachItem : Obligations.OnlyTheListedInstructionsWriteEachItem := by
  intro i s t h
  obtain ⟨k, -, hfault⟩ | ⟨-, heffect⟩ := exec_cases i s
  · cases hfault.symm.trans h
    simp
  · cases heffect.symm.trans h
    exact ⟨fun hi => effect_byteAt hi s, fun hi => effect_I hi s, fun hi => effect_stack hi s,
      fun hi => effect_sp hi s, fun hi => effect_fb hi s, fun hi => effect_DT hi s, fun hi => effect_ST hi s,
      fun hi => effect_kprev hi s, fun hi => effect_io hi s, effect_tacc i s, effect_cfg i s⟩

/-- Settles O18: a fault writes no register, and the effect only the destinations. -/
theorem onlyDestinationRegistersChange : Obligations.OnlyDestinationRegistersChange := by
  intro i s t r h hr
  obtain ⟨k, -, hfault⟩ | ⟨-, heffect⟩ := exec_cases i s
  · cases hfault.symm.trans h
    rfl
  · cases heffect.symm.trans h
    exact effect_reg hr s

/-- Settles O19: the effect of the six writes a flag byte to VF last. -/
theorem flagIsZeroOrOne : Obligations.FlagIsZeroOrOne := by
  intro i s hset hnone
  obtain ⟨b, hb⟩ := effect_reg_flag hset s
  exact ⟨effect i s, exec_of_noFault hnone, hb ▸ flagByte_eq b⟩

end Sys2Proof.Proofs
end

section
/-! SUPPORT. The step of each agent (00_scope.md R11, 40_fetch_dispatch.md R90, R97): the cycle of a running machine,
the key poll, the timer engine, and the host's Start and Stop. -/

namespace Sys2Proof.Proofs

open Sys2Proof.Machine Sys2Proof.Claims

/-! ## The fetch and the cycle (R52, R90) -/

theorem fetchWord_of_fits {s : State} (h : s.pc.toNat + 1 < 4096) : s.fetchWord = some (wordAtPc s) :=
  if_neg (by rw [memSize_eq]; omega)

theorem fetchWord_of_exceeds {s : State} (h : 4095 ≤ s.pc.toNat) : s.fetchWord = none :=
  if_pos (by rw [memSize_eq]; omega)

theorem cycle_of_fetch_none {s : State} (h : s.fetchWord = none) : cycle s = .next (s.raise .memOutOfBounds none) := by
  simp only [cycle, h]

theorem cycle_of_unknown {s : State} {w : Word} (h : s.fetchWord = some w) (hd : decode w = none) :
    cycle s = .next (unknownOpcode w s) := by
  simp only [cycle, h, hd]

theorem cycle_of_decode {s : State} {w : Word} {i : Instr} (h : s.fetchWord = some w) (hd : decode w = some i) :
    cycle s = exec i s := by
  simp only [cycle, h, hd]

/-! ## The interpreter's step on the schedule -/

theorem step_of_interp {s : State} {keys : Word} (h : s.nextEvent = .step keys) :
    step s = interpStep { s with io := sampled s keys } :=
  step_of_event h

theorem step_of_running {s : State} {keys : Word} (h : s.nextEvent = .step keys) (hrun : s.run = .running) :
    step s = cycle { s with io := sampled s keys } :=
  (step_of_interp h).trans (interpStep_of_running hrun)

theorem step_of_awaiting {s : State} {keys : Word} {x : RegIdx} (h : s.nextEvent = .step keys)
    (hrun : s.run = .awaitingKey x) : step s = .next (keyPoll x { s with io := sampled s keys }) :=
  (step_of_interp h).trans (interpStep_of_awaiting hrun)

theorem step_of_decode {s : State} {keys : Word} {i : Instr} (h : s.nextEvent = .step keys) (hrun : s.run = .running)
    (hpc : s.pc.toNat + 1 < 4096) (hd : decode (wordAtPc s) = some i) :
    step s = exec i { s with io := sampled s keys } :=
  (step_of_running h hrun).trans (cycle_of_decode (fetchWord_of_fits hpc) hd)

theorem step_of_unknown {s : State} {keys : Word} (h : s.nextEvent = .step keys) (hrun : s.run = .running)
    (hpc : s.pc.toNat + 1 < 4096) (hd : decode (wordAtPc s) = none) :
    step s = .next (unknownOpcode (wordAtPc s) { s with io := sampled s keys }) :=
  (step_of_running h hrun).trans (cycle_of_unknown (fetchWord_of_fits hpc) hd)

theorem step_of_fetch_none {s : State} {keys : Word} (h : s.nextEvent = .step keys) (hrun : s.run = .running)
    (hpc : 4095 ≤ s.pc.toNat) : step s = .next (State.raise { s with io := sampled s keys } .memOutOfBounds none) :=
  (step_of_running h hrun).trans (cycle_of_fetch_none (fetchWord_of_exceeds hpc))

theorem unknownOpcode_of_halt {s : State} (w : Word) (h : s.cfg.unknownPolicy = .halt) :
    unknownOpcode w s = s.raise .unknownOpcode (some w) := by
  simp only [unknownOpcode, h]

theorem unknownOpcode_of_skip {s : State} (w : Word) (h : s.cfg.unknownPolicy = .skip) :
    unknownOpcode w s = (s.report w).advance := by
  simp only [unknownOpcode, h]

/-- The three ways of a running machine's step (R52, R90). -/
theorem step_running_cases {s : State} {keys : Word} (h : s.nextEvent = .step keys) (hrun : s.run = .running) :
    step s = .next (State.raise { s with io := sampled s keys } .memOutOfBounds none) ∨
    (s.pc.toNat + 1 < 4096 ∧ step s = .next (unknownOpcode (wordAtPc s) { s with io := sampled s keys })) ∨
    ∃ i, s.pc.toNat + 1 < 4096 ∧ decode (wordAtPc s) = some i ∧ step s = exec i { s with io := sampled s keys } := by
  by_cases hpc : s.pc.toNat + 1 < 4096
  · cases hd : decode (wordAtPc s) with
    | none => exact .inr (.inl ⟨hpc, step_of_unknown h hrun hpc hd⟩)
    | some i => exact .inr (.inr ⟨i, hpc, rfl, step_of_decode h hrun hpc hd⟩)
  · exact .inl (step_of_fetch_none h hrun (by omega))

/-! ## The key poll (R184) -/

/-- P as the statements write it: pressed in this sample and not in the last one. -/
theorem newKeys_getLsbD_sampled (s : State) (keys : Word) {k : Nat} (hk : k < 16) :
    (State.newKeys { s with io := sampled s keys }).getLsbD k = true ↔
      keys.getLsbD k = true ∧ s.kprev.getLsbD k = false := by
  rw [State.newKeys_getLsbD _ k hk, Bool.and_eq_true, Bool.not_eq_true']
  rfl

theorem keyPoll_of_key (x : RegIdx) {s : State} {k : Nat} (h : lowestKey s.newKeys = some k) :
    keyPoll x s = (((s.setReg x (BitVec.ofNat 8 k)).setPc (s.pc + 2)).setRun .running).latchKeys := by
  simp only [keyPoll, h]

theorem keyPoll_of_no_key (x : RegIdx) {s : State} (h : lowestKey s.newKeys = none) : keyPoll x s = s.latchKeys := by
  simp only [keyPoll, h]

theorem keyPoll_cases (x : RegIdx) (s : State) :
    (∃ v, keyPoll x s = (((s.setReg x v).setPc (s.pc + 2)).setRun .running).latchKeys) ∨
    keyPoll x s = s.latchKeys := by
  cases h : lowestKey s.newKeys with
  | some k => exact .inl ⟨_, keyPoll_of_key x h⟩
  | none => exact .inr (keyPoll_of_no_key x h)

/-! ## The timer engine (R187, R188) -/

theorem regsSame_ticks (n : Nat) (s : State) : RegsSame s (ticks n s) := by
  rw [ticks_eq]
  exact fun _ => rfl

theorem toNat_ticks_DT (n : Nat) (s : State) : (ticks n s).DT.toNat = s.DT.toNat - n := by
  rw [ticks_eq]
  exact toNat_countDown_iterate n s.DT

theorem toNat_ticks_ST (n : Nat) (s : State) : (ticks n s).ST.toNat = s.ST.toNat - n := by
  rw [ticks_eq]
  exact toNat_countDown_iterate n s.ST

theorem period_of_tickPeriod {c : Config} {p : Nat} (h : c.tickPeriod = some p) : Config.period c = p := by
  simp only [Config.period, h]

theorem nextEvent_cons {s : State} {e : Event} {rest : List Event} (h : s.io.schedule = e :: rest) :
    s.nextEvent = e := by
  simp only [State.nextEvent, h]

/-- The run over `n` Ticks of the schedule is the `n` ticks. -/
theorem run_ticks (n : Nat) (s : State) (rest : List Event)
    (h : s.io.schedule = List.replicate n Event.tick ++ rest) :
    Host.Core.run core n s =
      .next { ticks n s with io := { s.io with schedule := rest, events := s.io.events + n } } := by
  induction n generalizing s with
  | zero => rw [show rest = s.io.schedule from h.symm]; rfl
  | succ n ih =>
    have hstep : step s = .next (tick s.popEvent) := step_of_event (nextEvent_cons h)
    have hrest : (tick s.popEvent).io.schedule = List.replicate n Event.tick ++ rest := by
      rw [tick_io, State.popEvent_io, h]
      rfl
    rw [run_of_step n hstep, ih _ hrest]
    simp only [ticks, ticks_eq, tick_io, State.popEvent_io, Nat.add_assoc, Nat.add_comm 1]
    rfl

/-! ## The state after reset (R230) and Start (R233) -/

/-- R31: the table of the statements is the model's font. -/
theorem glyphByte_eq {d k : Nat} (hd : d < 16) (hk : k < 5) : glyphByte d k = fontBytes[5 * d + k]? := by
  have htable : ∀ d < 16, ∀ k < 5, glyphByte d k = fontBytes[5 * d + k]? := by decide
  exact htable d hd k hk

/-- R230: byte k of glyph d stands at FONT_BASE + 5 d + k at reset. -/
theorem glyphByte_eq_resetByte (fontBase : Nat) {d k : Nat} (hd : d < 16) (hk : k < 5) :
    glyphByte d k = some (Memory.resetByte fontBase (fontBase + 5 * d + k)) := by
  rw [glyphByte_eq hd hk, Nat.add_assoc, Memory.resetByte_font fontBase (by omega)]

theorem byteAt_initial (cfg : Config) (io : Ports) (a : Nat) :
    (State.initial cfg io).byteAt a = Memory.resetByte cfg.fontBase a := rfl

theorem reg_initial (cfg : Config) (io : Ports) (r : RegIdx) : (State.initial cfg io).reg r = 0 :=
  Vector.getElem_replicate _

theorem pixel_initial (cfg : Config) (io : Ports) (x y : Nat) : (State.initial cfg io).fb.pixel x y = false :=
  Framebuffer.pixel_clear x y

/-- R233: the state `Start` leaves where the image fits. -/
def started (s : State) (image : List Byte) : State :=
  { State.initial s.cfg s.io with
      mem := Memory.writeAll s.cfg.fontBase [] loadBase image, run := .running }

theorem hostStart_of_fits {image : List Byte} (h : image.length ≤ 3584) (s : State) :
    hostStart image s = started s image := by
  obtain ⟨hlong, -⟩ | ⟨-, hstart⟩ := hostStart_cases image s
  · exact absurd (h.trans_lt hlong) (Nat.lt_irrefl _)
  · exact hstart

theorem hostStart_of_exceeds {image : List Byte} (h : 3584 < image.length) (s : State) : hostStart image s = s :=
  if_pos h

theorem byteAt_started (s : State) (image : List Byte) (a : Nat) :
    (started s image).byteAt a =
      if 0x200 ≤ a then (image[a - 0x200]?).getD (Memory.resetByte s.cfg.fontBase a)
      else Memory.resetByte s.cfg.fontBase a :=
  Memory.read_writeAll s.cfg.fontBase image [] loadBase a

theorem byteAt_started_image (s : State) {image : List Byte} {k : Nat} (h : k < image.length) :
    image[k]? = some ((started s image).byteAt (0x200 + k)) := by
  rw [byteAt_started, if_pos (Nat.le_add_right _ _), Nat.add_sub_cancel_left, List.getElem?_eq_getElem h,
    Option.getD_some]

theorem byteAt_started_outside (s : State) {image : List Byte} {a : Nat} (h : a < 0x200 ∨ 0x200 + image.length ≤ a) :
    (started s image).byteAt a = Memory.resetByte s.cfg.fontBase a := by
  rw [byteAt_started]
  split
  · rw [List.getElem?_eq_none (by omega), Option.getD_none]
  · rfl

/-! ## The obligations -/

/-- Settles O7: the fetch gives the word at `pc`, and the cycle runs what it decodes to. -/
theorem stepRunsTheDecodedInstruction : Obligations.StepRunsTheDecodedInstruction :=
  fun _ _ _ hev hrun hpc hd => step_of_decode hev hrun hpc hd

/-- Settles O8: in both run states the interpreter's step answers the state it was given. -/
theorem stepOutsideRunningDoesNothing : Obligations.StepOutsideRunningDoesNothing := by
  intro s keys hev hrun
  rw [step_of_interp hev]
  obtain hstopped | hhalted := hrun
  · exact interpStep_of_stopped hstopped
  · exact interpStep_of_halted hhalted

/-- Settles O9: the fetch answers no word, and the cycle raises. -/
theorem fetchOutOfMemoryHalts : Obligations.FetchOutOfMemoryHalts :=
  fun _ _ hev hrun hpc => step_of_fetch_none hev hrun hpc

/-- Settles O10: the cycle comes to the unknown-opcode handler, which raises under Halt. -/
theorem unknownOpcodeHaltsByDefault : Obligations.UnknownOpcodeHaltsByDefault :=
  fun _ _ hev hrun hpc hd hhalt =>
    (step_of_unknown hev hrun hpc hd).trans (congrArg _ (unknownOpcode_of_halt _ hhalt))

/-- Settles O11: under Skip the handler reports and moves on; `pc` is below 4096 and does not wrap. -/
theorem unknownOpcodeIsSkippedUnderSkip : Obligations.UnknownOpcodeIsSkippedUnderSkip := by
  intro s keys hev hrun hpc hd hskip
  have hanswer := (step_of_unknown hev hrun hpc hd).trans (congrArg _ (unknownOpcode_of_skip _ hskip))
  refine ⟨_, hanswer, ?_, fun _ => rfl, othersSame_setPc s (s.pc + 2), rfl⟩
  rw [State.advance_pc, State.report_pc]
  bv_omega

/-- Settles O51: the search of the poll finds exactly the lowest key that went down. -/
theorem keyPollEndsTheWaitOnANewKey : Obligations.KeyPollEndsTheWaitOnANewKey := by
  intro s keys x hev hrun
  rw [step_of_awaiting hev hrun]
  refine ⟨fun k hk hdown hprev hlow => ?_, fun hnone => ?_⟩
  · have hkey : lowestKey (State.newKeys { s with io := sampled s keys }) = some k :=
      (lowestKey_eq_some _ k).2 ⟨hk, (newKeys_getLsbD_sampled s keys hk).2 ⟨hdown, hprev⟩, fun j hj =>
        Bool.eq_false_iff.2 fun hnew => hlow j hj ((newKeys_getLsbD_sampled s keys (hj.trans hk)).1 hnew)⟩
    refine ⟨_, congrArg _ (keyPoll_of_key x hkey), ?_, fun r hr => State.reg_setReg_other _ x r _ hr, rfl, rfl, rfl,
      rfl, ?_⟩
    · rw [State.latchKeys_reg, State.setRun_reg, State.setPc_reg, State.reg_setReg_same, BitVec.toNat_ofNat]
      omega
    · constructor <;> intros <;> rfl
  · have hkey : lowestKey (State.newKeys { s with io := sampled s keys }) = none :=
      (lowestKey_eq_none _).2 fun k hk =>
        Bool.eq_false_iff.2 fun hnew => hnone k hk ((newKeys_getLsbD_sampled s keys hk).1 hnew)
    exact congrArg _ (keyPoll_of_no_key x hkey)

/-- Settles O52: a Tick is one decrement of each timer, in whatever run state. -/
theorem tickDecrementsTheTimers : Obligations.TickDecrementsTheTimers := by
  intro s hev
  refine ⟨tick s.popEvent, step_of_event hev, toNat_countDown s.DT, toNat_countDown s.ST, rfl, rfl, fun _ => rfl, ?_⟩
  constructor <;> intros <;> rfl

/-- Settles O53, by induction on the number of Ticks on the schedule (`run_ticks`). -/
theorem ticksCountDownToZero : Obligations.TicksCountDownToZero := by
  intro n s rest h
  refine ⟨_, run_ticks n s rest h, toNat_ticks_DT n s, toNat_ticks_ST n s, rfl, ?_, regsSame_ticks n s, ?_⟩
  · simp only [ticks_eq]
  · simp only [ticks_eq]
    constructor <;> intros <;> rfl

/-- Settles O54: the ticks of the quotient, from the state whose prescaler holds the remainder. -/
theorem advanceTimeTicksAndKeepsTheRemainder : Obligations.AdvanceTimeTicksAndKeepsTheRemainder := by
  intro s dt p hev hp _
  have hanswer : step s =
      .next (ticks ((s.tacc + dt) / p) (s.popEvent.setTacc ((s.tacc + dt) % p))) := by
    rw [step_of_event hev, ← period_of_tickPeriod hp]
    rfl
  refine ⟨_, hanswer, ?_, toNat_ticks_DT _ _, toNat_ticks_ST _ _, ?_, ?_, regsSame_ticks _ _, ?_⟩
  · simp only [ticks_eq, State.setTacc_tacc]
  · simp only [ticks_eq, State.setTacc_pc, State.popEvent_pc]
  · simp only [ticks_eq, State.setTacc_io, State.popEvent_io, popped]
  · simp only [ticks_eq]
    constructor <;> intros <;> rfl

/-- Settles O12: the reset state is the initial one with the default parameters. -/
theorem resetLeavesTheInitialState : Obligations.ResetLeavesTheInitialState := by
  refine ⟨fun d k hd hk => ?_, fun a ha => ?_, reg_initial {} {}, rfl,
    rfl, rfl, rfl, pixel_initial {} {}, rfl, rfl, rfl, rfl, rfl, rfl, rfl, rfl, rfl⟩
  · rw [State.reset, byteAt_initial, glyphByte_eq_resetByte 0 hd hk, Nat.zero_add]
  · exact Memory.resetByte_outside (fontBase := 0) (.inr (by omega))

/-- Settles O55: memory is the reset content, over which the image is written from 0x200 on; the font ends below. -/
theorem startResetsLoadsAndRuns : Obligations.StartResetsLoadsAndRuns := by
  intro s image hev
  have hanswer : step s = .next (hostStart image s.popEvent) := step_of_event hev
  refine ⟨fun hfits => ?_, fun hlong => ?_⟩
  · rw [hostStart_of_fits hfits] at hanswer
    refine ⟨_, hanswer, rfl, rfl, fun k hk => byteAt_started_image _ hk, fun hbase d k hd hk => ?_,
      fun a hfont himage => ?_, reg_initial s.cfg (popped s), rfl, rfl, rfl,
      pixel_initial s.cfg (popped s), rfl, rfl, rfl, rfl, rfl, rfl, rfl⟩
    · rw [byteAt_started_outside _ (.inl (by omega))]
      exact glyphByte_eq_resetByte _ hd hk
    · rw [byteAt_started_outside _ himage]
      exact Memory.resetByte_outside hfont
  · rw [hanswer, hostStart_of_exceeds hlong]
    rfl

/-- Settles O56: Stop writes the run state only. -/
theorem stopOnlyStops : Obligations.StopOnlyStops := fun _ hev => step_of_event hev

/-- Settles O57: the interpreter's step does nothing, and the timer engine writes the timers and the prescaler only. -/
theorem haltedIsLeftOnlyByStartOrStop : Obligations.HaltedIsLeftOnlyByStartOrStop := by
  intro s t hhalted hstep hstart hstop
  cases hev : s.nextEvent with
  | step keys =>
    cases ((step_of_interp hev).trans (interpStep_of_halted hhalted)).symm.trans hstep
    exact ⟨hhalted, rfl, rfl, fun _ => rfl, fun _ => rfl, rfl, rfl, rfl, rfl⟩
  | tick =>
    cases (step_of_event hev).symm.trans hstep
    exact ⟨hhalted, rfl, rfl, fun _ => rfl, fun _ => rfl, rfl, rfl, rfl, rfl⟩
  | advance dt =>
    have hanswer := (step_of_event hev).symm.trans hstep
    simp only [agentStep, advanceTime, ticks_eq] at hanswer
    cases hanswer
    exact ⟨hhalted, rfl, rfl, fun _ => rfl, fun _ => rfl, rfl, rfl, rfl, rfl⟩
  | start image => exact absurd hev (hstart image)
  | stop => exact absurd hev hstop

/-- Settles O15: an instruction answers a fault or its effect, and every agent's step comes to a next state. -/
theorem everyStepHasANextState : Obligations.EveryStepHasANextState := by
  have hexec : ∀ (i : Instr) (s : State), ∃ t, exec i s = .next t := by
    intro i s
    obtain ⟨k, -, hfault⟩ | ⟨-, heffect⟩ := exec_cases i s
    · exact ⟨_, hfault⟩
    · exact ⟨_, heffect⟩
  refine ⟨fun s => ?_, hexec⟩
  cases hev : s.nextEvent with
  | step keys =>
    cases hrun : s.run with
    | stopped => exact ⟨_, (step_of_interp hev).trans (interpStep_of_stopped hrun)⟩
    | halted => exact ⟨_, (step_of_interp hev).trans (interpStep_of_halted hrun)⟩
    | awaitingKey x => exact ⟨_, step_of_awaiting hev hrun⟩
    | running =>
      obtain hraise | ⟨-, hunknown⟩ | ⟨i, -, -, hinstr⟩ := step_running_cases hev hrun
      · exact ⟨_, hraise⟩
      · exact ⟨_, hunknown⟩
      · rw [hinstr]
        exact hexec i _
  | tick | advance | start | stop => exact ⟨_, step_of_event hev⟩

end Sys2Proof.Proofs
end

section
/-! SUPPORT. Control transfer, the register ALU and the keypad (41_control_flow.md, 42_alu.md, 45_timers_keys.md): what
the stack holds after a call, the numbers the arithmetic gives, and the instructions that rest on them. -/

namespace Sys2Proof.Proofs

open Sys2Proof.Machine Sys2Proof.Claims

/-! ## The call stack (R28, R111, R112) -/

theorem exec_call_of_room {s : State} (nnn : Addr12) (h : s.sp < s.cfg.stackCapacity) :
    exec (.call nnn) s = .next (effect (.call nnn) s) :=
  exec_of_noFault (if_neg (Nat.ne_of_lt h))

theorem exec_ret_of_entry {s : State} (h : 0 < s.sp) : exec .ret s = .next (effect .ret s) :=
  exec_of_noFault (if_neg (Nat.ne_of_gt h))

/-- The entry a call pushes stands at the old `sp`. -/
theorem getElem?_stack_call {s : State} (nnn : Addr12) (hstack : s.StackOk) (h : s.sp < s.cfg.stackCapacity) :
    (effect (.call nnn) s).stack[s.sp]? = some (s.pc + 2) :=
  List.getElem?_set_self (hstack.1 ▸ h)

theorem getElem?_stackTop {s : State} (hstack : s.StackOk) (h : 0 < s.sp) :
    s.stack[s.sp - 1]? = some s.stackTop := by
  obtain ⟨hlen, hsp⟩ := hstack
  rw [State.stackTop, List.getElem?_eq_getElem (by omega), Option.getD_some]

/-! ## Numbers (R113, R142, R152) -/

theorem toNat_zextByte (b : Byte) : (zextByte b).toNat = b.toNat := BitVec.toNat_setWidth_of_le (by decide)

/-- The sum of a 12-bit and an 8-bit number stays below 65536. -/
theorem toNat_offsetTarget (s : State) (nnn : Addr12) :
    (s.offsetTarget nnn).toNat = nnn.toNat + (s.reg 0).toNat := by
  rw [State.offsetTarget, BitVec.toNat_add, toNat_zextAddr, toNat_zextByte]
  omega

theorem toNat_regNibble (s : State) (x : RegIdx) : (s.regNibble x).toNat = (s.reg x).toNat % 16 := by
  rw [State.regNibble, BitVec.extractLsb'_toNat, Nat.shiftRight_zero]

theorem toNat_byte_sub (a b : Byte) : (a - b).toNat = (a.toNat + 256 - b.toNat) % 256 := by
  rw [BitVec.toNat_sub]
  omega

theorem toNat_flagByte_notBorrow (a b : Byte) :
    (flagByte (notBorrow a b)).toNat = if a.toNat ≥ b.toNat then 1 else 0 :=
  toNat_flagByte_decide _

theorem toNat_byte_shr (a : Byte) : (a >>> 1).toNat = a.toNat / 2 := by
  rw [BitVec.toNat_ushiftRight, Nat.shiftRight_eq_div_pow]

theorem toNat_byte_shl (a : Byte) : (a <<< 1).toNat = a.toNat * 2 % 256 := by
  rw [BitVec.toNat_shiftLeft, Nat.shiftLeft_eq]

/-- A flag made from bit `j` is that bit as a number. -/
theorem toNat_flagByte_getLsbD (a : Byte) (j : Nat) : (flagByte (a.getLsbD j)).toNat = a.toNat / 2 ^ j % 2 := by
  rw [BitVec.getLsbD, Nat.testBit_eq_decide_div_mod_eq, toNat_flagByte_decide]
  split <;> omega

theorem toNat_flagByte_shrOut (a : Byte) : (flagByte (shrOut a)).toNat = a.toNat % 2 := by
  rw [shrOut, toNat_flagByte_getLsbD, Nat.pow_zero, Nat.div_one]

theorem toNat_flagByte_shlOut (a : Byte) : (flagByte (shlOut a)).toNat = a.toNat / 128 := by
  rw [shlOut, toNat_flagByte_getLsbD]
  omega

theorem keyDown_regNibble (s : State) (x : RegIdx) :
    s.keyDown (s.regNibble x) = s.io.keys.getLsbD ((s.reg x).toNat % 16) := by
  rw [State.keyDown, toNat_regNibble]

/-- With FONT_BASE in its range no glyph's address wraps. -/
theorem toNat_glyphAddr {s : State} (h : s.cfg.fontBase ≤ 0x1B0) (d : Nibble) :
    (s.glyphAddr d).toNat = s.cfg.fontBase + 5 * d.toNat := by
  rw [State.glyphAddr, BitVec.toNat_ofNat]
  omega

/-! ## The random source (R141) -/

theorem randByte_of_cons {s : State} {b : Byte} {rest : List Byte} (h : s.io.rands = b :: rest) : s.randByte = b := by
  simp only [State.randByte, h]

theorem randByte_of_nil {s : State} (h : s.io.rands = []) : s.randByte = Config.freeRand s.io.draws := by
  simp only [State.randByte, h]

/-! ## What each instruction answers -/

/-- R113. -/
theorem exec_jpV0 (nnn : Addr12) (s : State) : exec (.jpV0 nnn) s = .next (s.setPc (s.offsetTarget nnn)) := rfl

/-- R133. -/
theorem exec_or (x y : RegIdx) (s : State) :
    exec (.or x y) s = .next (s.advance.setReg x (s.reg x ||| s.reg y)) := rfl

/-- R134. -/
theorem exec_and (x y : RegIdx) (s : State) :
    exec (.and x y) s = .next (s.advance.setReg x (s.reg x &&& s.reg y)) := rfl

/-- R135. -/
theorem exec_xor (x y : RegIdx) (s : State) :
    exec (.xor x y) s = .next (s.advance.setReg x (s.reg x ^^^ s.reg y)) := rfl

/-- R137. -/
theorem exec_sub (x y : RegIdx) (s : State) :
    exec (.sub x y) s =
      .next (s.advance.setRegFlag x (s.reg x - s.reg y) (notBorrow (s.reg x) (s.reg y))) := rfl

/-- R138. -/
theorem exec_shr (x y : RegIdx) (s : State) :
    exec (.shr x y) s = .next (s.advance.setRegFlag x (s.reg x >>> 1) (shrOut (s.reg x))) := rfl

/-- R139. -/
theorem exec_subn (x y : RegIdx) (s : State) :
    exec (.subn x y) s =
      .next (s.advance.setRegFlag x (s.reg y - s.reg x) (notBorrow (s.reg y) (s.reg x))) := rfl

/-- R140. -/
theorem exec_shl (x y : RegIdx) (s : State) :
    exec (.shl x y) s = .next (s.advance.setRegFlag x (s.reg x <<< 1) (shlOut (s.reg x))) := rfl

/-- R141. -/
theorem exec_rnd (x : RegIdx) (nn : Byte) (s : State) :
    exec (.rnd x nn) s = .next (s.advance.drawRand.setReg x (s.randByte &&& nn)) := rfl

/-- R151. -/
theorem exec_addI (x : RegIdx) (s : State) :
    exec (.addI x) s = .next (s.advance.setI (s.I + zextByte (s.reg x))) := rfl

/-- R152. -/
theorem exec_ldF (x : RegIdx) (s : State) :
    exec (.ldF x) s = .next (s.advance.setI (s.glyphAddr (s.regNibble x))) := rfl

/-- R181. -/
theorem exec_skp (x : RegIdx) (s : State) : exec (.skp x) s = .next (s.skipIf (s.keyDown (s.regNibble x))) := rfl

/-- R182. -/
theorem exec_sknp (x : RegIdx) (s : State) : exec (.sknp x) s = .next (s.skipIf (!s.keyDown (s.regNibble x))) := rfl

/-- R183. -/
theorem exec_ldVxK (x : RegIdx) (s : State) : exec (.ldVxK x) s = .next (s.enterWait x) := rfl

/-! ## The obligations -/

/-- Settles O21: the push writes the entry at the old `sp` and the rest of the stack keeps its bits. -/
theorem callPushesTheNextAddress : Obligations.CallPushesTheNextAddress := by
  intro nnn s hstack hroom
  refine ⟨_, exec_call_of_room nnn hroom, toNat_zextAddr nnn, rfl, getElem?_stack_call nnn hstack hroom,
    fun j hj => List.getElem?_set_ne hj.symm, fun _ => rfl, ?_⟩
  constructor <;> intros <;> rfl

/-- Settles O22: the entry below `sp` is listed, since the stack has STACK_CAPACITY entries. -/
theorem returnPopsTheProgramCounter : Obligations.ReturnPopsTheProgramCounter := by
  intro s hstack hentry
  refine ⟨_, exec_ret_of_entry hentry, getElem?_stackTop hstack hentry, Nat.sub_add_cancel hentry, fun _ => rfl, ?_⟩
  constructor <;> intros <;> rfl

/-- Settles O23: the return pops the entry the call pushed. -/
theorem returnUndoesCall : Obligations.ReturnUndoesCall := by
  intro nnn s hstack hroom
  refine ⟨_, exec_call_of_room nnn hroom, fun u hustack husp => ?_⟩
  have hsp : u.sp = s.sp + 1 := husp
  have htop : u.stackTop = s.pc + 2 := by
    rw [State.stackTop, hsp, Nat.add_sub_cancel, hustack, getElem?_stack_call nnn hstack hroom, Option.getD_some]
  exact ⟨_, exec_ret_of_entry (hsp ▸ Nat.succ_pos _), htop, congrArg (· - 1) hsp⟩

/-- Settles O24: the sum of the widened operands, which does not wrap. -/
theorem jumpWithOffsetAddsV0 : Obligations.JumpWithOffsetAddsV0 := by
  intro nnn s
  exact ⟨_, exec_jpV0 nnn s, toNat_offsetTarget s nnn, regsSame_setPc s _, othersSame_setPc s _⟩

/-- Settles O29: each is one register write, of the operation on the old bytes. -/
theorem logicOperationsWorkBitByBit : Obligations.LogicOperationsWorkBitByBit := by
  intro x y s
  refine ⟨⟨_, exec_or x y s, writesReg_advance_setReg s x _, fun j => ?_⟩,
    ⟨_, exec_and x y s, writesReg_advance_setReg s x _, fun j => ?_⟩,
    ⟨_, exec_xor x y s, writesReg_advance_setReg s x _, fun j => ?_⟩⟩
  · rw [State.reg_setReg_same, BitVec.getLsbD_or]
  · rw [State.reg_setReg_same, BitVec.getLsbD_and]
  · rw [State.reg_setReg_same, BitVec.getLsbD_xor]

/-- Settles O31: the flag-last law R143 on the two differences and their borrows. -/
theorem subtractionsSetNotBorrowLast : Obligations.SubtractionsSetNotBorrowLast := by
  intro x y s
  exact ⟨⟨_, exec_sub x y s,
      writesRegAndFlag_advance_setRegFlag s x (toNat_byte_sub _ _) (toNat_flagByte_notBorrow _ _)⟩,
    ⟨_, exec_subn x y s,
      writesRegAndFlag_advance_setRegFlag s x (toNat_byte_sub _ _) (toNat_flagByte_notBorrow _ _)⟩⟩

/-- Settles O32: the flag-last law R143 on the two shifts and the bits they put out. -/
theorem shiftsMoveOneBitAndSetTheFlagLast : Obligations.ShiftsMoveOneBitAndSetTheFlagLast := by
  intro x y s
  exact ⟨⟨_, exec_shr x y s, writesRegAndFlag_advance_setRegFlag s x (toNat_byte_shr _) (toNat_flagByte_shrOut _)⟩,
    ⟨_, exec_shl x y s, writesRegAndFlag_advance_setRegFlag s x (toNat_byte_shl _) (toNat_flagByte_shlOut _)⟩⟩

/-- Settles O33: the byte drawn is the source's next one, listed or free. -/
theorem randomDrawsOneMaskedByte : Obligations.RandomDrawsOneMaskedByte := by
  intro x nn s
  refine ⟨_, s.randByte, exec_rnd x nn s, fun b rest h => ⟨randByte_of_cons h, congrArg List.tail h⟩,
    fun h => ⟨randByte_of_nil h, congrArg List.tail h⟩, fun j => ?_, rfl, rfl,
    fun r hr => State.reg_setReg_other _ x r _ hr, ?_, rfl, rfl, rfl, rfl⟩
  · rw [State.reg_setReg_same, BitVec.getLsbD_and]
  · constructor <;> intros <;> rfl

/-- Settles O35: the sum of two words is the sum modulo 65536. -/
theorem addToIndexWrapsWithoutFlag : Obligations.AddToIndexWrapsWithoutFlag := by
  intro x s
  refine ⟨_, exec_addI x s, ?_, rfl, regsSame_setPc s (s.pc + 2), othersSame_setPc s (s.pc + 2)⟩
  rw [State.setI_I, BitVec.toNat_add, toNat_zextByte]

/-- Settles O36: `I` takes the address of the glyph, which does not wrap. -/
theorem fontIndexPointsAtTheGlyph : Obligations.FontIndexPointsAtTheGlyph := by
  intro x s hbase
  refine ⟨_, exec_ldF x s, ?_, rfl, regsSame_setPc s (s.pc + 2), othersSame_setPc s (s.pc + 2)⟩
  rw [State.setI_I, toNat_glyphAddr hbase, toNat_regNibble]

/-- Settles O49: the key tested is the one of the low nibble, on the sample of this step. -/
theorem keySkipsTestTheSampledLevel : Obligations.KeySkipsTestTheSampledLevel := by
  intro x s
  refine ⟨⟨_, exec_skp x s, skips_skipIf s ?_⟩, ⟨_, exec_sknp x s, skips_skipIf s ?_⟩⟩
  · rw [keyDown_regNibble]
  · rw [keyDown_regNibble, Bool.not_eq_true']

/-- Settles O50: the wait is entered with `pc` as it was before the fetch. -/
theorem keyWaitSuspendsAtTheInstruction : Obligations.KeyWaitSuspendsAtTheInstruction := by
  intro x s
  refine ⟨_, exec_ldVxK x s, rfl, rfl, rfl, fun _ => rfl, ?_⟩
  constructor <;> intros <;> rfl

end Sys2Proof.Proofs
end

section
/-! SUPPORT. Memory as a whole (20_memory.md section 5): a store is read back and fetched, and no other step makes one. -/

namespace Sys2Proof.Proofs

open Sys2Proof.Machine Sys2Proof.Claims

/-! ## What a store leaves at each address (R153, R154) -/

theorem byteAt_storeRun_regRun (s : State) (x : RegIdx) (a : Nat) :
    (storeRun s (s.regRun x)).byteAt a = byteAfterStore s x a := by
  unfold byteAfterStore
  split
  · next h =>
    have hx := x.isLt
    have hr : (BitVec.ofNat 4 (a - s.indexAddr)).toNat = a - s.indexAddr := by
      rw [BitVec.toNat_ofNat, Nat.mod_eq_of_lt (by omega)]
    have hget := s.getElem?_regRun x (BitVec.ofNat 4 (a - s.indexAddr))
    rw [hr, if_pos (by omega)] at hget
    simpa [Nat.add_sub_cancel' h.1] using byteAt_storeRun_of_getElem? s hget
  · exact byteAt_storeRun_outside s (by rw [State.length_regRun]; omega)

theorem byteAt_storeRun_bcdDigits (s : State) (x : RegIdx) (a : Nat) :
    (storeRun s (bcdDigits (s.reg x))).byteAt a = byteAfterBcd s x a := by
  unfold byteAfterBcd
  split
  · next h => exact h ▸ byteAt_storeRun_of_getElem? s (getElem?_bcdDigits_hundreds _)
  · split
    · next h => exact h ▸ byteAt_storeRun_of_getElem? s (getElem?_bcdDigits_tens _)
    · split
      · next h => exact h ▸ byteAt_storeRun_of_getElem? s (getElem?_bcdDigits_ones _)
      · exact byteAt_storeRun_outside s (by rw [length_bcdDigits]; omega)

/-- The fetch after a store reads the two bytes that then stand behind the instruction. -/
theorem fetchWord_storeRun {s : State} (bs : List Byte) (h : s.pc.toNat + 4 ≤ 4096) :
    (storeRun s bs).fetchWord =
      some (wordOfBytes ((storeRun s bs).byteAt (s.pc.toNat + 2)) ((storeRun s bs).byteAt (s.pc.toNat + 3))) := by
  have hpc : (storeRun s bs).pc.toNat = s.pc.toNat + 2 := by
    rw [storeRun_pc]
    bv_omega
  rw [fetchWord_of_fits (by omega), wordAtPc, hpc]

/-- A byte a store changes lies in the run stored. -/
theorem mem_run_of_byteAt_storeRun_ne {s : State} {bs : List Byte} {a : Nat}
    (h : (storeRun s bs).byteAt a ≠ s.byteAt a) : s.indexAddr ≤ a ∧ a < s.indexAddr + bs.length := by
  by_contra hout
  exact h (byteAt_storeRun_outside s (by omega))

/-- R59: a byte an instruction changes is one of the at most 16 that LD_B or LD_MEM_VX stores inside memory. -/
theorem store_of_byteAt_ne {i : Instr} {s t : State} {a : Nat} (h : exec i s = .next t)
    (hne : t.byteAt a ≠ s.byteAt a) :
    ∃ x, (i = .ldB x ∨ i = .ldMemVx x) ∧ s.indexAddr ≤ a ∧ a < s.indexAddr + 16 ∧ a < 4096 := by
  obtain ⟨k, -, hfault⟩ | ⟨hnone, heffect⟩ := exec_cases i s
  · cases hfault.symm.trans h
    exact absurd rfl hne
  · cases heffect.symm.trans h
    cases i with
    | ldB x =>
      have hfits := not_of_faultTest_eq_none hnone
      have hrun := mem_run_of_byteAt_storeRun_ne hne
      rw [length_bcdDigits] at hrun
      exact ⟨x, .inl rfl, by omega⟩
    | ldMemVx x =>
      have hfits := not_of_faultTest_eq_none hnone
      have hrun := mem_run_of_byteAt_storeRun_ne hne
      have hx := x.isLt
      rw [State.length_regRun] at hrun
      exact ⟨x, .inr rfl, by omega⟩
    | _ => exact absurd (effect_byteAt (by simp) s a) hne

theorem byteAt_unknownOpcode (w : Word) (s : State) (a : Nat) : (unknownOpcode w s).byteAt a = s.byteAt a := by
  obtain ⟨-, h⟩ | ⟨-, h⟩ := unknownOpcode_cases w s
  · rw [h, State.raise_byteAt]
  · rw [h, State.advance_byteAt, State.report_byteAt]

theorem byteAt_keyPoll (x : RegIdx) (s : State) (a : Nat) : (keyPoll x s).byteAt a = s.byteAt a := by
  obtain ⟨v, h⟩ | h := keyPoll_cases x s
  · rw [h]
    rfl
  · rw [h, State.latchKeys_byteAt]

theorem byteAt_ticks (n : Nat) (s : State) (a : Nat) : (ticks n s).byteAt a = s.byteAt a := by
  rw [ticks_eq]
  rfl

/-! ## The obligations -/

/-- Settles O40: the load reads the bytes the store put there, and neither writes `I`. -/
theorem loadAfterStoreRestoresTheRegisters : Obligations.LoadAfterStoreRestoresTheRegisters := by
  intro x s hfits
  refine ⟨_, exec_ldMemVx_of_fits hfits, rfl, fun u hI hbytes => ?_⟩
  have haddr : u.indexAddr = s.indexAddr := congrArg BitVec.toNat hI
  refine ⟨_, exec_ldVxMem_of_fits (haddr ▸ hfits), (State.loadRegs_I _ _).trans hI, fun r hr => ?_⟩
  rw [reg_loadRegs_range, if_pos (Nat.lt_succ_of_le hr), haddr, hbytes]
  exact byteAt_storeRun_of_getElem? s (by rw [State.getElem?_regRun, if_pos hr])

/-- Settles O41: both stores are runs from `I` on, and the next fetch reads what then stands at A + 2 and A + 3. -/
theorem storeIsSeenByTheNextFetch : Obligations.StoreIsSeenByTheNextFetch := by
  intro x s hpc
  refine ⟨fun hfits => ⟨_, exec_ldMemVx_of_fits hfits, ?_⟩, fun hfits => ⟨_, exec_ldB_of_fits hfits, ?_⟩⟩
  · rw [fetchWord_storeRun _ hpc, byteAt_storeRun_regRun, byteAt_storeRun_regRun]
  · rw [fetchWord_storeRun _ hpc, byteAt_storeRun_bcdDigits, byteAt_storeRun_bcdDigits]

/-- Settles O58: every agent but Start, and of the Steps every one but a store's, leaves each byte as it was. -/
theorem onlyStartAndStoresChangeMemory : Obligations.OnlyStartAndStoresChangeMemory := by
  intro s t a hstep hne
  cases hev : s.nextEvent with
  | start image => exact .inl ⟨image, rfl⟩
  | tick =>
    cases (step_of_event hev).symm.trans hstep
    exact absurd rfl hne
  | advance dt =>
    cases (step_of_event hev).symm.trans hstep
    exact absurd (byteAt_ticks _ _ a) hne
  | stop =>
    cases (step_of_event hev).symm.trans hstep
    exact absurd rfl hne
  | step keys =>
    cases hrun : s.run with
    | stopped =>
      cases ((step_of_interp hev).trans (interpStep_of_stopped hrun)).symm.trans hstep
      exact absurd rfl hne
    | halted =>
      cases ((step_of_interp hev).trans (interpStep_of_halted hrun)).symm.trans hstep
      exact absurd rfl hne
    | awaitingKey x =>
      cases (step_of_awaiting hev hrun).symm.trans hstep
      exact absurd (byteAt_keyPoll x _ a) hne
    | running =>
      obtain hraise | ⟨-, hunknown⟩ | ⟨i, -, hd, hexec⟩ := step_running_cases hev hrun
      · cases hraise.symm.trans hstep
        exact absurd rfl hne
      · cases hunknown.symm.trans hstep
        exact absurd (byteAt_unknownOpcode _ _ a) hne
      · obtain ⟨x, hi, hlow, hhigh, hin⟩ := store_of_byteAt_ne (hexec.symm.trans hstep) hne
        refine .inr ⟨keys, x, rfl, rfl, ?_, hlow, hhigh, hin⟩
        obtain rfl | rfl := hi
        · exact .inl hd
        · exact .inr hd

end Sys2Proof.Proofs
end

section
/-! SUPPORT. The sprite pixel by pixel (44_display.md R171, R172) and the packed framebuffer (10_state.md R30). -/

namespace Sys2Proof.Proofs

open Sys2Proof.Machine Sys2Proof.Claims

/-! ## The sprite, pixel by pixel (R171) -/

theorem exec_drw_of_fits {n : Nibble} {s : State} (x y : RegIdx) (h : n = 0 ∨ s.indexAddr + n.toNat ≤ 4096) :
    exec (.drw x y n) s = .next (effect (.drw x y n) s) := by
  refine exec_of_noFault (if_neg fun hout => ?_)
  obtain rfl | hfits := h
  · exact absurd hout.1 (by decide)
  · omega

theorem length_spriteBytes (s : State) (n : Nibble) : (s.spriteBytes n).length = n.toNat := by
  rw [State.spriteBytes, List.length_map, List.length_range]

theorem length_spriteBytes_le (s : State) (n : Nibble) : (s.spriteBytes n).length ≤ 32 := by
  have := n.isLt
  rw [length_spriteBytes]
  omega

/-- R171: the 1 bits of the sprite of `DRW`. -/
theorem mem_spriteDots_spriteBytes (s : State) (n : Nibble) (c r : Nat) :
    (c, r) ∈ spriteDots 0 (s.spriteBytes n) ↔
      r < n.toNat ∧ c < 8 ∧ (s.byteAt (s.indexAddr + r)).getLsbD (7 - c) = true := by
  rw [mem_spriteDots, State.spriteBytes, Nat.sub_zero]
  by_cases hr : r < n.toNat
  · simp [hr]
  · simp [hr]

/-- A pixel is covered exactly where one of the sprite's dots lands. -/
theorem covered_iff (s : State) (x y : RegIdx) (n : Nibble) (px py : Nat) :
    Covered s x y n px py ↔ ∃ d ∈ spriteDots 0 (s.spriteBytes n),
      (((s.reg x).toNat % 64 + d.1) % 64, ((s.reg y).toNat % 32 + d.2) % 32) = (px, py) := by
  simp only [Covered, Prod.exists, mem_spriteDots_spriteBytes, Prod.mk.injEq]
  constructor
  · rintro ⟨r, c, hr, hc, hbit, hx, hy⟩
    exact ⟨c, r, ⟨hr, hc, hbit⟩, hx.symm, hy.symm⟩
  · rintro ⟨c, r, ⟨hr, hc, hbit⟩, hx, hy⟩
    exact ⟨r, c, hr, hc, hbit, hx.symm, hy.symm⟩

theorem covered_lt {s : State} {x y : RegIdx} {n : Nibble} {px py : Nat} (h : Covered s x y n px py) :
    px < 64 ∧ py < 32 := by
  obtain ⟨r, c, -, -, -, rfl, rfl⟩ := h
  exact ⟨Nat.mod_lt _ (by decide), Nat.mod_lt _ (by decide)⟩

/-- The draw finds a collision exactly where the sprite covers a pixel that is on. -/
theorem collides_iff (s : State) (x y : RegIdx) (n : Nibble) :
    Collides s x y n ↔
      (drawSprite ((s.reg x).toNat % 64) ((s.reg y).toNat % 32) (s.spriteBytes n) s.fb).2 = true := by
  rw [(drawSprite_spec _ _ _ _ (length_spriteBytes_le s n)).2, List.any_eq_true]
  constructor
  · rintro ⟨px, py, -, -, hcov, hon⟩
    obtain ⟨d, hd, hland⟩ := (covered_iff s x y n px py).1 hcov
    obtain ⟨rfl, rfl⟩ := Prod.mk.inj hland
    exact ⟨d, hd, hon⟩
  · rintro ⟨d, hd, hon⟩
    have hcov := (covered_iff s x y n _ _).2 ⟨d, hd, rfl⟩
    exact ⟨_, _, (covered_lt hcov).1, (covered_lt hcov).2, hcov, hon⟩

/-- R171: after the draw a pixel is flipped exactly where it is covered. -/
theorem pixel_effect_drw (s : State) (x y : RegIdx) (n : Nibble) (px py : Nat) [Decidable (Covered s x y n px py)] :
    (effect (.drw x y n) s).fb.pixel px py = (s.fb.pixel px py != decide (Covered s x y n px py)) := by
  refine ((drawSprite_spec _ _ _ _ (length_spriteBytes_le s n)).1 px py).trans ?_
  congr 1
  exact decide_eq_decide.2 (covered_iff s x y n px py).symm

theorem reg_effect_drw_flag (s : State) (x y : RegIdx) (n : Nibble) [Decidable (Collides s x y n)] :
    (effect (.drw x y n) s).reg 15 = flagByte (decide (Collides s x y n)) := by
  refine (State.reg_setReg_same _ flagReg _).trans (congrArg flagByte ?_)
  rw [Bool.eq_iff_iff, decide_eq_true_iff, collides_iff]

/-- The cover of a sprite depends on its place, its bytes and its height only. -/
theorem covered_congr {s t : State} {x y : RegIdx} (hx : t.reg x = s.reg x) (hy : t.reg y = s.reg y)
    (hI : t.I = s.I) (hbytes : ∀ a, t.byteAt a = s.byteAt a) (n : Nibble) (px py : Nat) :
    Covered t x y n px py ↔ Covered s x y n px py := by
  simp only [Covered, State.indexAddr, hx, hy, hI, hbytes]

/-! ## The packed framebuffer (R30) -/

/-- Pieces of one length laid end to end: piece `y` begins at `y * m`. -/
theorem getElem?_flatMap_of_length {α β : Type} {f : α → List β} {m : Nat} (hf : ∀ a, (f a).length = m)
    (l : List α) (y : Nat) {k : Nat} (hk : k < m) : (l.flatMap f)[y * m + k]? = l[y]?.bind fun a => (f a)[k]? := by
  induction l generalizing y with
  | nil => rfl
  | cons a l ih =>
    rw [List.flatMap_cons]
    cases y with
    | zero =>
      rw [Nat.zero_mul, Nat.zero_add, List.getElem?_append_left (by rw [hf]; exact hk)]
      rfl
    | succ y =>
      have hskip : (y + 1) * m + k = m + (y * m + k) := by rw [Nat.succ_mul]; omega
      rw [hskip, List.getElem?_append_right (by rw [hf]; omega), hf, Nat.add_sub_cancel_left, ih]
      rfl

theorem length_packedRow (row : BitVec 64) : (packedRow row).length = 8 := by
  rw [packedRow, List.length_map, List.length_range]

/-- Pixel `x` of a row stands in bit 7 - x mod 8 of byte x div 8. -/
theorem getLsbD_packedByte (row : BitVec 64) {x : Nat} (hx : x < 64) :
    (packedByte row (x / 8)).getLsbD (7 - x % 8) = row.getMsbD x := by
  have hbit : 56 - 8 * (x / 8) + (7 - x % 8) = 64 - 1 - x := by omega
  rw [packedByte, BitVec.getLsbD_extractLsb', BitVec.getMsbD_eq_getLsbD, hbit, decide_eq_true (by omega),
    decide_eq_true hx]

/-! ## The obligations -/

/-- Settles O43: the loops flip each pixel a dot lands on once, since the dots of a sprite land on distinct pixels. -/
theorem drawFlipsExactlyTheCoveredPixels : Obligations.DrawFlipsExactlyTheCoveredPixels := by
  classical
  intro x y n s hfits
  refine ⟨_, exec_drw_of_fits x y hfits, fun px py _ _ hcov => ?_, fun px py _ _ hcov => ?_, fun hcol => ?_,
    fun hcol => ?_, rfl, fun r hr => State.reg_setReg_other _ flagReg r _ hr, ?_⟩
  · rw [pixel_effect_drw, decide_eq_true hcov, Bool.bne_true]
  · rw [pixel_effect_drw, decide_eq_false hcov, Bool.bne_false]
  · rw [reg_effect_drw_flag, decide_eq_true hcol]
    rfl
  · rw [reg_effect_drw_flag, decide_eq_false hcol]
    rfl
  · constructor <;> intros <;> rfl

/-- Settles O44, from O43 at both draws: the second draw covers the same pixels, and a pixel flipped twice is back. -/
theorem drawingTwiceRestoresTheFramebuffer : Obligations.DrawingTwiceRestoresTheFramebuffer := by
  intro x y n s hx hy hfits
  obtain ⟨t, ht, htcov, htout, htcol, htnocol, -, htregs, htothers⟩ :=
    drawFlipsExactlyTheCoveredPixels x y n s hfits
  have hI : t.I = s.I := htothers.I
  have hsame := covered_congr (htregs x hx) (htregs y hy) hI htothers.bytes n
  obtain ⟨u, hu, hucov, huout, hucol, hunocol, -⟩ :=
    drawFlipsExactlyTheCoveredPixels x y n t (by simpa only [State.indexAddr, hI] using hfits)
  refine ⟨t, u, ht, hu, Framebuffer.ext_pixel fun px py hpx hpy => ?_, fun hflag hdot => hucol ?_, fun hdot => ?_⟩
  · by_cases hcov : Covered s x y n px py
    · rw [hucov px py hpx hpy ((hsame px py).2 hcov), htcov px py hpx hpy hcov, Bool.not_not]
    · rw [huout px py hpx hpy (mt (hsame px py).1 hcov), htout px py hpx hpy hcov]
  · obtain ⟨px, py, hcov⟩ := hdot
    obtain ⟨hpx, hpy⟩ := covered_lt hcov
    have hoff : s.fb.pixel px py = false := by
      rw [← Bool.not_eq_true]
      intro hon
      exact absurd (hflag.symm.trans (htcol ⟨px, py, hpx, hpy, hcov, hon⟩)) (by decide)
    exact ⟨px, py, hpx, hpy, (hsame px py).2 hcov, by rw [htcov px py hpx hpy hcov, hoff, Bool.not_false]⟩
  · refine ⟨htnocol fun ⟨px, py, _, _, hcov, _⟩ => hdot ⟨px, py, hcov⟩,
      hunocol fun ⟨px, py, _, _, hcov, _⟩ => hdot ⟨px, py, (hsame px py).1 hcov⟩⟩

/-- Settles O45: each row is packed into 8 bytes, and the rows stand one after the other. -/
theorem packedFramebufferHoldsEveryPixel : Obligations.PackedFramebufferHoldsEveryPixel := by
  intro s
  refine ⟨?_, fun x y hx hy => ⟨packedByte (s.fb[y]'hy) (x / 8), ?_, ?_⟩⟩
  · simp [State.fbp, List.length_flatMap, length_packedRow]
  · have hcol : x / 8 < 8 := by omega
    rw [State.fbp, getElem?_flatMap_of_length length_packedRow _ _ hcol]
    simp [packedRow, hy, hcol]
  · rw [getLsbD_packedByte _ hx, Framebuffer.pixel, dif_pos hy]

end Sys2Proof.Proofs
end

section
/-! SUPPORT. The invariant of the machine (`State.Inv`): it holds after reset, every instruction keeps it part by part,
and with that every step of every agent does. -/

namespace Sys2Proof.Proofs

open Sys2Proof.Machine Sys2Proof.Claims

/-! ## The interface and the timers play no part -/

theorem inv_with_io {s : State} (h : s.Inv) (p : Ports) : State.Inv { s with io := p } :=
  ⟨h.cfg, h.mem, h.stack, h.pc, h.tacc, h.fault⟩

theorem inv_ticks {s : State} (h : s.Inv) (n : Nat) : (ticks n s).Inv := by
  rw [ticks_eq]
  exact ⟨h.cfg, h.mem, h.stack, h.pc, h.tacc, h.fault⟩

/-- R7: TICK_PERIOD is at least 1, given or not. -/
theorem period_pos {c : Config} (h : c.wellFormed = true) : 0 < Config.period c := by
  simp only [Config.wellFormed, Bool.and_eq_true] at h
  obtain ⟨-, htick⟩ := h
  unfold Config.period
  split
  · next p hp =>
    have hgiven : decide (1 ≤ p) = true := by simpa only [Config.tickPeriodOk, hp] using htick
    exact of_decide_eq_true hgiven
  · exact Nat.succ_pos _

theorem inv_advanceTime {s : State} (h : s.Inv) (dt : Nat) : (advanceTime dt s).Inv := by
  have hrest : (s.setTacc ((s.tacc + dt) % Config.period s.cfg)).Inv :=
    ⟨h.cfg, h.mem, h.stack, h.pc, Nat.mod_lt _ (period_pos h.cfg), h.fault⟩
  exact inv_ticks hrest _

/-! ## Run state and record (R206, R207) -/

/-- R207: a machine that is neither halted nor stopped has no record. -/
theorem fault_eq_none {s : State} (h : s.FaultOk) (hh : s.run ≠ .halted) (hs : s.run ≠ .stopped) : s.fault = none := by
  by_contra hfault
  exact (h.2 hfault).elim hh hs

/-- A state with no record that is not halted is consistent. -/
theorem faultOk_of_none {s : State} (hfault : s.fault = none) (hrun : s.run ≠ .halted) : s.FaultOk :=
  ⟨fun hh => absurd hh hrun, fun hne => absurd hfault hne⟩

/-! ## Reset, Start and Stop -/

theorem inv_initial {cfg : Config} (h : cfg.wellFormed = true) (io : Ports) : (State.initial cfg io).Inv where
  cfg := h
  mem := ⟨List.Pairwise.nil, nofun⟩
  stack := ⟨List.length_replicate, Nat.zero_le _⟩
  pc := ⟨show BitVec.toNat 0x200#16 ≤ 0x10FE by decide, fun a ha => by simp [(List.mem_replicate.1 ha).2], nofun⟩
  tacc := period_pos h
  fault := faultOk_of_none rfl nofun

theorem inv_started {s : State} (h : s.Inv) {image : List Byte} (hfits : image.length ≤ 3584) :
    (started s image).Inv := by
  have hinit := inv_initial h.cfg s.io
  exact
    { cfg := h.cfg
      mem := Memory.writeAll_wf image hinit.mem (by rw [loadBase_eq, memSize_eq]; omega)
      stack := hinit.stack
      pc := ⟨hinit.pc.1, hinit.pc.2.1, nofun⟩
      tacc := hinit.tacc
      fault := faultOk_of_none rfl nofun }

theorem inv_hostStart {s : State} (h : s.Inv) (image : List Byte) : (hostStart image s).Inv := by
  by_cases hfits : image.length ≤ 3584
  · exact hostStart_of_fits hfits s ▸ inv_started h hfits
  · exact (hostStart_of_exceeds (Nat.not_le.1 hfits) s).symm ▸ h

theorem inv_hostStop {s : State} (h : s.Inv) : (hostStop s).Inv :=
  ⟨h.cfg, h.mem, h.stack, ⟨h.pc.1, h.pc.2.1, nofun⟩, h.tacc, nofun, fun _ => .inr rfl⟩

/-! ## Faults, unknown opcodes and the key poll -/

/-- R206: the halted machine has its record. -/
theorem inv_raise {s : State} (h : s.Inv) (k : FaultKind) (w : Option Word) : (s.raise k w).Inv :=
  ⟨h.cfg, h.mem, h.stack, ⟨h.pc.1, h.pc.2.1, nofun⟩, h.tacc, nofun, fun _ => .inl rfl⟩

theorem toNat_add_two {a : Word} (h : a.toNat + 2 ≤ 4096) : (a + 2).toNat = a.toNat + 2 := by
  bv_omega

theorem inv_unknownOpcode {s : State} (h : s.Inv) (hrun : s.run = .running) (hpc : s.pc.toNat + 2 ≤ 4096) (w : Word) :
    (unknownOpcode w s).Inv := by
  obtain ⟨-, hraise⟩ | ⟨-, hskip⟩ := unknownOpcode_cases w s
  · exact hraise ▸ inv_raise h _ _
  · rw [hskip]
    refine ⟨h.cfg, h.mem, h.stack, ⟨?_, h.pc.2.1, fun x hx => ?_⟩, h.tacc, h.fault⟩
    · rw [State.advance_pc, State.report_pc, toNat_add_two hpc]
      omega
    · cases hrun.symm.trans hx

theorem inv_keyPoll {s : State} {x : RegIdx} (h : s.Inv) (hrun : s.run = .awaitingKey x) : (keyPoll x s).Inv := by
  obtain ⟨v, hkey⟩ | hnone := keyPoll_cases x s
  · have hfault : s.fault = none := fault_eq_none h.fault (by simp [hrun]) (by simp [hrun])
    have hwait : s.pc.toNat + 2 ≤ 4096 := h.pc.2.2 x hrun
    have hpc : (s.pc + 2).toNat ≤ 0x10FE := by
      rw [toNat_add_two hwait]
      omega
    rw [hkey]
    exact ⟨h.cfg, h.mem, h.stack, ⟨hpc, h.pc.2.1, nofun⟩, h.tacc, faultOk_of_none hfault nofun⟩
  · rw [hnone]
    exact ⟨h.cfg, h.mem, h.stack, h.pc, h.tacc, h.fault⟩

/-! ## Instructions, part by part -/

theorem memOk_effect {i : Instr} {s : State} (h : s.MemOk) (hnone : faultKindOf i s = none) : (effect i s).MemOk := by
  rw [State.MemOk, effect_cfg]
  cases i with
  | ldB x =>
    refine Memory.writeAll_wf _ h ?_
    have hfits := not_of_faultTest_eq_none hnone
    rw [length_bcdDigits, memSize_eq]
    omega
  | ldMemVx x =>
    refine Memory.writeAll_wf _ h ?_
    have hfits := not_of_faultTest_eq_none hnone
    rw [State.length_regRun, memSize_eq]
    omega
  | _ => rw [effect_mem (by simp)]; exact h

theorem stackOk_effect {i : Instr} {s : State} (h : s.StackOk) (hnone : faultKindOf i s = none) :
    (effect i s).StackOk := by
  obtain ⟨hlen, hsp⟩ := h
  rw [State.StackOk, effect_cfg]
  cases i with
  | call nnn =>
    have hroom := not_of_faultTest_eq_none hnone
    exact ⟨List.length_set.trans hlen, Nat.lt_of_le_of_ne hsp hroom⟩
  | ret => exact ⟨hlen, (Nat.sub_le _ _).trans hsp⟩
  | _ => rw [effect_stack (by simp), effect_sp (by simp)]; exact ⟨hlen, hsp⟩

/-- R111: the return address a call pushes is at most 4096. -/
theorem stack_le_effect {i : Instr} {s : State} (h : ∀ a ∈ s.stack, a.toNat ≤ memSize) (hpc : s.pc.toNat + 2 ≤ 4096) :
    ∀ a ∈ (effect i s).stack, a.toNat ≤ memSize := by
  cases i with
  | call nnn =>
    intro a ha
    obtain hold | rfl := List.mem_or_eq_of_mem_set ha
    · exact h a hold
    · exact (toNat_add_two hpc).trans_le hpc
  | _ => rw [effect_stack (by simp)]; exact h

/-- R112: an entry of the stack, or 0 where the list holds none. -/
theorem toNat_stackTop_le {s : State} (h : ∀ a ∈ s.stack, a.toNat ≤ memSize) : s.stackTop.toNat ≤ memSize := by
  unfold State.stackTop
  cases hget : s.stack[s.sp - 1]? with
  | none => exact Nat.zero_le _
  | some a => exact h a (List.mem_of_getElem? hget)

/-- R27: the highest `pc` an instruction can leave is 0xFFF + 0xFF, under JP_V0. -/
theorem pc_le_effect (i : Instr) {s : State} (h : ∀ a ∈ s.stack, a.toNat ≤ memSize) (hpc : s.pc.toNat + 2 ≤ 4096) :
    (effect i s).pc.toNat ≤ 0x10FE := by
  have hnext : (s.pc + 2).toNat ≤ 0x10FE := by bv_omega
  have hskip : (s.pc + 4).toNat ≤ 0x10FE := by bv_omega
  have hjump : ∀ nnn : Addr12, (zextAddr nnn).toNat ≤ 0x10FE := fun nnn => by
    have := nnn.isLt
    rw [toNat_zextAddr]
    omega
  cases i with
  | jp nnn | call nnn => exact hjump nnn
  | jpV0 nnn =>
    have hn := nnn.isLt
    have hv := (s.reg 0).isLt
    refine (toNat_offsetTarget s nnn).trans_le ?_
    omega
  | ret => exact (toNat_stackTop_le h).trans (by decide)
  | seImm | sneImm | seReg | sneReg | skp | sknp =>
    show BitVec.toNat (ite _ _ _) ≤ 0x10FE
    split
    · exact hskip
    · exact hnext
  | ldVxK x => show s.pc.toNat ≤ 0x10FE; omega
  | _ => exact hnext

/-- R183: after an instruction that enters the wait `pc` stands at it. -/
theorem pc_of_awaiting_effect {i : Instr} {s : State} (hrun : s.run = .running) (hpc : s.pc.toNat + 2 ≤ 4096)
    (x : RegIdx) (h : (effect i s).run = .awaitingKey x) : (effect i s).pc.toNat + 2 ≤ memSize := by
  cases i with
  | ldVxK y => exact hpc
  | _ => cases (hrun.symm.trans (effect_run (by simp) s).symm).trans h

theorem run_effect_ne_halted (i : Instr) {s : State} (hrun : s.run = .running) : (effect i s).run ≠ .halted := by
  cases i with
  | ldVxK x => exact nofun
  | _ => rw [effect_run (by simp), hrun]; exact nofun

theorem inv_effect {i : Instr} {s : State} (h : s.Inv) (hrun : s.run = .running) (hpc : s.pc.toNat + 2 ≤ 4096)
    (hnone : faultKindOf i s = none) : (effect i s).Inv where
  cfg := by rw [effect_cfg]; exact h.cfg
  mem := memOk_effect h.mem hnone
  stack := stackOk_effect h.stack hnone
  pc := ⟨pc_le_effect i h.pc.2.1 hpc, stack_le_effect h.pc.2.1 hpc, pc_of_awaiting_effect hrun hpc⟩
  tacc := by rw [State.TaccOk, effect_tacc, effect_cfg]; exact h.tacc
  fault := by
    have hnofault : s.fault = none := fault_eq_none h.fault (by simp [hrun]) (by simp [hrun])
    exact faultOk_of_none ((effect_fault i s).trans hnofault) (run_effect_ne_halted i hrun)

theorem inv_exec {i : Instr} {s t : State} (h : s.Inv) (hrun : s.run = .running) (hpc : s.pc.toNat + 2 ≤ 4096)
    (hexec : exec i s = .next t) : t.Inv := by
  obtain ⟨k, -, hfault⟩ | ⟨hnone, heffect⟩ := exec_cases i s
  · cases hfault.symm.trans hexec
    exact inv_raise h _ _
  · cases heffect.symm.trans hexec
    exact inv_effect h hrun hpc hnone

/-! ## The obligations -/

/-- Settles O13: the initial state meets the invariant for all parameters in range. -/
theorem resetSatisfiesTheInvariant : Obligations.ResetSatisfiesTheInvariant :=
  inv_initial (by decide) {}

/-- Settles O14: agent by agent, and for the interpreter run state by run state. -/
theorem everyStepKeepsTheInvariant : Obligations.EveryStepKeepsTheInvariant := by
  intro s t h hstep
  have hpopped : s.popEvent.Inv := inv_with_io h _
  cases hev : s.nextEvent with
  | tick =>
    cases (step_of_event hev).symm.trans hstep
    exact inv_ticks hpopped 1
  | advance dt =>
    cases (step_of_event hev).symm.trans hstep
    exact inv_advanceTime hpopped dt
  | start image =>
    cases (step_of_event hev).symm.trans hstep
    exact inv_hostStart hpopped image
  | stop =>
    cases (step_of_event hev).symm.trans hstep
    exact inv_hostStop hpopped
  | step keys =>
    have hsampled : State.Inv { s with io := sampled s keys } := inv_with_io h _
    cases hrun : s.run with
    | stopped =>
      cases ((step_of_interp hev).trans (interpStep_of_stopped hrun)).symm.trans hstep
      exact hsampled
    | halted =>
      cases ((step_of_interp hev).trans (interpStep_of_halted hrun)).symm.trans hstep
      exact hsampled
    | awaitingKey x =>
      cases (step_of_awaiting hev hrun).symm.trans hstep
      exact inv_keyPoll hsampled hrun
    | running =>
      obtain hraise | ⟨hpc, hunknown⟩ | ⟨i, hpc, -, hexec⟩ := step_running_cases hev hrun
      · cases hraise.symm.trans hstep
        exact inv_raise hsampled _ _
      · cases hunknown.symm.trans hstep
        exact inv_unknownOpcode hsampled hrun hpc _
      · exact inv_exec hsampled hrun hpc (hexec.symm.trans hstep)

end Sys2Proof.Proofs
end
